-- ==== Sys2Proof/Word.lean ====
section
/-! DEFINITION. The bit vectors of the decoder, at the widths of 00_scope.md rule R8 and 41_data_symbols.md rule R94.
All are unsigned (R10); bit 0 is the least significant (R9). -/

namespace Sys2Proof

/-- A symbol, `sym[3:0]` (R60). -/
abbrev Symbol := BitVec 4
/-- The data field `d` of a data nibble, 3 bits (R61). -/
abbrev DataBits := BitVec 3
/-- The accumulator register `acc[5:0]` (R22). -/
abbrev Acc := BitVec 6
/-- The 9-bit value of a completed group, `g9` (R64). -/
abbrev Group := BitVec 9
/-- A transferred byte `b8` (R64), a raw captured byte (R42), or `ev_data[7:0]` (R33). -/
abbrev Byte := BitVec 8
/-- A 7-bit I2C address (R65). -/
abbrev Addr := BitVec 7
/-- The event kind on the ports, `ev_kind[1:0]` (R33, R68). -/
abbrev Kind := BitVec 2

end Sys2Proof
end

