-- ==== Sys2Proof/Machine/Event.lean ====
section
/-! DEFINITION. The capture events (30_encoding.md rule R67). -/

namespace Sys2Proof.Machine

/-- The direction of an address group (R65): `b8[0] = 1` is Read. -/
inductive Direction where
  | read
  | write
deriving DecidableEq, Repr

/-- A capture event (R67). `stop` has no field: 90_conflicts.md C1 gives it no acknowledged flag.
`acknowledged = true` is ACK, `false` is NAK (R12); a NAK is an ordinary event (R111). -/
inductive Event where
  | start (address : Addr) (direction : Direction) (acknowledged : Bool)
  | byte (value : Byte) (acknowledged : Bool)
  | stop
deriving DecidableEq, Repr

end Sys2Proof.Machine
end

