-- ==== Sys2Proof/Machine/Operands.lean ====
section
/-! DEFINITION. The fields of symbols, groups and bytes (30_encoding.md rules R61, R64, R65, R66; 20_memory.md rule R42). -/

namespace Sys2Proof.Machine

/-- A symbol with `sym[3] = 1` is a data nibble (R61). -/
def isDataNibble (sym : Symbol) : Bool := sym.getLsbD 3

/-- The data field `d = sym[2:0]` of a data nibble (R61). -/
def dataField (sym : Symbol) : DataBits := sym.extractLsb' 0 3

/-- The 9-bit group value at its third nibble: `g9 = acc ++ d` (R64, R91), the first nibble in the most significant
bits (R43). -/
def groupValue (acc : Acc) (d : DataBits) : Group := acc ++ d

/-- The transferred byte `b8 = g9[8:1]` (R64). -/
def groupByte (g9 : Group) : Byte := g9.extractLsb' 1 8

/-- The acknowledged flag: `NOT g9[0]`, so a 0 in bit 0 means acknowledged (R64). -/
def groupAck (g9 : Group) : Bool := !g9.getLsbD 0

/-- The address of an address group: `b8[7:1]` (R65). -/
def addressField (b8 : Byte) : Addr := b8.extractLsb' 1 7

/-- The direction of an address group: Read if `b8[0] = 1`, else Write (R65). -/
def directionField (b8 : Byte) : Direction := if b8.getLsbD 0 then .read else .write

/-- The direction bit: 1 for Read and 0 for Write (R68). -/
def directionBit : Direction → BitVec 1
  | .read => 1
  | .write => 0

/-- The byte of an address group: `address ++ dirbit` (R68, R69). -/
def addressByte (address : Addr) (direction : Direction) : Byte := address ++ directionBit direction

/-- The high nibble of a raw byte: `r[7:4]` (R42). -/
def highNibble (r : Byte) : Symbol := r.extractLsb' 4 4

/-- The low nibble of a raw byte: `r[3:0]` (R42). -/
def lowNibble (r : Byte) : Symbol := r.extractLsb' 0 4

end Sys2Proof.Machine
end

