-- ==== Sys2Proof/Syntax.lean ====
section
/-! DEFINITION. The decoder's instructions: the 16 values of a 4-bit symbol, one constructor for each row of
spec/opcode_table.json (30_encoding.md rule R63). -/

namespace Sys2Proof

/-- One symbol as an operation. `dk k` is the row `Dk`: the eight data nibbles `D0` to `D7` (R61, R75). -/
inductive Instr where
  /-- `IDLE`, symbol 0 (R80). -/
  | idle
  /-- `S`, symbol 1, the start marker (R81). -/
  | s
  /-- `P`, symbol 2, the stop marker (R82). -/
  | p
  /-- `RSV3`, symbol 3, reserved (R100). -/
  | rsv3
  /-- `RSV4`, symbol 4, reserved (R100). -/
  | rsv4
  /-- `RSV5`, symbol 5, reserved (R100). -/
  | rsv5
  /-- `RSV6`, symbol 6, reserved (R100). -/
  | rsv6
  /-- `RSV7`, symbol 7, reserved (R100). -/
  | rsv7
  /-- `Dk`, symbols 8 to 15, the data nibble with data bits `k` (R90). -/
  | dk (k : DataBits)
deriving DecidableEq, Repr

end Sys2Proof
end

