-- ==== Sys2Proof/Decode.lean ====
section
/-! DEFINITION. Decoding a symbol into an instruction, and encoding it back (30_encoding.md rules R60 to R63), with
spec/opcode_table.json as a table of rows. -/

namespace Sys2Proof

/-- The operation of a control symbol, by its value 0 to 7 (R62, R63). -/
def decodeControl : BitVec 3 → Instr
  | 0#3 => .idle
  | 1#3 => .s
  | 2#3 => .p
  | 3#3 => .rsv3
  | 4#3 => .rsv4
  | 5#3 => .rsv5
  | 6#3 => .rsv6
  | 7#3 => .rsv7

/-- The complete map from symbol value to operation (R63). It is total: no symbol value is illegal (R70). -/
def decodeSymbol (sym : Symbol) : Instr :=
  if Machine.isDataNibble sym then .dk (Machine.dataField sym)
  else decodeControl (sym.extractLsb' 0 3)

/-- Why no instruction is read from a list of symbols. No symbol is rejected (R70). -/
inductive DecodeRejection where
  /-- There is no symbol to read. -/
  | noSymbol
deriving DecidableEq, Repr

/-- Read one instruction from a list of symbols: every instruction is one whole symbol (R60, R71). -/
def decode : List Symbol → Except DecodeRejection (Instr × List Symbol)
  | [] => .error .noSymbol
  | sym :: rest => .ok (decodeSymbol sym, rest)

/-- The symbol of an instruction (R63, R75). -/
def encodeSymbol : Instr → Symbol
  | .idle => 0#4
  | .s => 1#4
  | .p => 2#4
  | .rsv3 => 3#4
  | .rsv4 => 4#4
  | .rsv5 => 5#4
  | .rsv6 => 6#4
  | .rsv7 => 7#4
  | .dk k => 1#1 ++ k

/-- The words of an instruction: one symbol (R60). -/
def encode (i : Instr) : List Symbol := [encodeSymbol i]

/-- The instructions of a whole symbol stream, in order. -/
def decodeStream (xs : List Symbol) : List Instr := xs.map decodeSymbol

/-- The symbol stream of a list of instructions. -/
def encodeStream (is : List Instr) : List Symbol := is.flatMap encode

/-- A row of spec/opcode_table.json: a symbol belongs to it when `sym & mask = match`. -/
structure OpcodeRow where
  mnemonic : String
  matchBits : Symbol
  maskBits : Symbol
deriving DecidableEq, Repr

/-- Whether a symbol belongs to a row. -/
def OpcodeRow.accepts (r : OpcodeRow) (sym : Symbol) : Bool := sym &&& r.maskBits == r.matchBits

/-- The row of spec/opcode_table.json that each constructor stands for. -/
def opcodeRow : Instr → OpcodeRow
  | .idle => { mnemonic := "IDLE", matchBits := 0x0, maskBits := 0xF }
  | .s => { mnemonic := "S", matchBits := 0x1, maskBits := 0xF }
  | .p => { mnemonic := "P", matchBits := 0x2, maskBits := 0xF }
  | .rsv3 => { mnemonic := "RSV3", matchBits := 0x3, maskBits := 0xF }
  | .rsv4 => { mnemonic := "RSV4", matchBits := 0x4, maskBits := 0xF }
  | .rsv5 => { mnemonic := "RSV5", matchBits := 0x5, maskBits := 0xF }
  | .rsv6 => { mnemonic := "RSV6", matchBits := 0x6, maskBits := 0xF }
  | .rsv7 => { mnemonic := "RSV7", matchBits := 0x7, maskBits := 0xF }
  | .dk _ => { mnemonic := "Dk", matchBits := 0x8, maskBits := 0x8 }

/-- The nine rows of spec/opcode_table.json, in its order. -/
def opcodeTable : List OpcodeRow :=
  [.idle, .s, .p, .rsv3, .rsv4, .rsv5, .rsv6, .rsv7, .dk 0].map opcodeRow

/-- `n` words of 4 bits, the least significant first: the numbering of spec/opcode_table.json, bit 0 the least
significant bit of the first word and a later word's bits counting on from it. (This is the table's numbering, not the
order of a raw byte's nibbles, which is R42.) -/
def tableWords : Nat → Nat → List Symbol
  | 0, _ => []
  | n + 1, w => BitVec.ofNat 4 w :: tableWords n (w / 16)

/-- The instruction the decoder reads from an instruction whose bits are `w`, of which the low `nbits` are given and the
others are 0 (DESIGN CHOICE, log 8). The decoder reads the first word; what stands above it would be the next symbol. -/
def decodeTableWord (nbits w : Nat) : Option Instr :=
  match decode (tableWords ((nbits + 3) / 4) (w % 2 ^ nbits)) with
  | .ok (i, _) => some i
  | .error _ => none

end Sys2Proof
end

