-- ==== Sys2Proof/Machine/State.lean ====
section
/-! DEFINITION. The state of the decoder: every register of 10_state.md rule R35, and the samples of the input ports that
the environment will drive at the coming clock edges. The decoder has no register file, program counter, memory, mode,
control register, timer or saved exception state (R27 to R31, R40, R116, R117, R119, R121, R122). -/

namespace Sys2Proof.Machine

/-- The symbol-level state (R20): exactly the three elements the document names. -/
structure Decoder where
  /-- The next completed group is an address group (R21). -/
  starting : Bool
  /-- The data bits of the group in progress (R22). -/
  acc : Acc
  /-- How many data nibbles of the group in progress have been consumed (R23). The value 3 of the 2-bit register is
  never reached, and the type excludes it, as decision D11 asks (one-bit registers are Bool: DEDUCED, log 7). -/
  ncnt : Fin 3
deriving DecidableEq, Repr

/-- The four output registers, which drive the output ports of the same names (R33, R34). -/
structure Outputs where
  /-- `ev_valid`: an event is on the outputs in this cycle. -/
  evValid : Bool
  /-- `ev_kind[1:0]`: the event variant (R68). -/
  evKind : Kind
  /-- `ev_data[7:0]`: the event's byte (R68). -/
  evData : Byte
  /-- `ev_ack`: the event's acknowledged flag (R68). -/
  evAck : Bool
deriving DecidableEq, Repr

/-- What the environment drives on the input ports at one rising edge of `clk` (R33). -/
structure PinSample where
  /-- Synchronous reset, active high (R130). -/
  rst : Bool
  /-- `sym` carries a symbol to be consumed at this edge. -/
  symValid : Bool
  /-- The symbol; ignored when `symValid` is false (R140). -/
  sym : Symbol
deriving DecidableEq, Repr

/-- The machine. `pins` is the MODEL'S OWN field (DESIGN CHOICE, log 2): the samples of the input ports at the coming
rising edges, the next one first. The decoder cannot re-read, skip, look ahead at or push back a symbol (R41): a step
takes the first sample and never reads another. -/
structure State extends Decoder, Outputs where
  /-- The input ports at the coming rising edges, the next first. -/
  pins : List PinSample
deriving DecidableEq, Repr

/-- The reasons to stop with a fault: none. The decoder raises no exception and no state makes a symbol fault (R110),
so this type has no constructor (DEDUCED, log 15). It would be unsafe if some hardware could stop: the spec says none can. -/
inductive Fault where
deriving DecidableEq, Repr

/-- The reasons to refuse an instruction. -/
inductive Refusal where
  /-- Raised by an arm of `exec` for an instruction that has no meaning yet. No arm raises it: every instruction has
  its meaning. It would be safe: the model would stop where the hardware goes on. -/
  | notModelled (mnemonic : String)
deriving DecidableEq, Repr

/-- The symbol-level state after reset (R26, R35, R130): `starting = 1`, `acc = 0`, `ncnt = 0`. -/
def Decoder.reset : Decoder := { starting := true, acc := 0, ncnt := 0 }

/-- The output registers when no event is on them, which is also their reset value (R34, R35, R68). -/
def Outputs.quiet : Outputs := { evValid := false, evKind := 0, evData := 0, evAck := false }

/-- The machine just after an edge with `rst = 1` (R35, R130), with nothing presented to it yet
(`pins := []` is a DESIGN CHOICE, log 4; it is no register of the decoder). No state stands for the time before the
first reset, which is outside the spec (R132; DEDUCED, log 5). -/
def State.reset : State := { toDecoder := Decoder.reset, toOutputs := Outputs.quiet, pins := [] }

end Sys2Proof.Machine
end

