-- ==== Sys2Proof/Machine/Flags.lean ====
section
/-! DEFINITION. The decoder's only flag, `starting` (10_state.md rule R29): set by reset (Decoder.reset), by the start
marker and by the stop marker; cleared only by a completed group decoded while it was set. There are no condition codes
(R29) and no mode or privilege bits (R117). -/

namespace Sys2Proof.Machine

/-- `starting <- 1` (R81, R82). -/
def Decoder.setStarting (s : Decoder) : Decoder := { s with starting := true }

/-- `starting <- 0` (R92). -/
def Decoder.clearStarting (s : Decoder) : Decoder := { s with starting := false }

end Sys2Proof.Machine
end

