-- ==== Sys2Proof/Machine/Ops.lean ====
section
/-! DEFINITION. The operations the meanings share: on the group in progress, on the output registers, on the input
ports, and the three things an edge of `clk` can do to the registers (70_reset_and_hazards.md rule R139).

There is no operation on memory (R40) or on numbered registers (R27), and none that takes an exception or returns from
one: the decoder raises no exception (R110), has no interrupt (R113) and no trap entry or return (R116). -/

namespace Sys2Proof.Machine

/-! ### The group in progress -/

/-- Append the data bits of a first or second nibble: `acc <- ((acc << 3) | zext_6(d))[5:0]`, `ncnt <- ncnt + 1` (R90). -/
def Decoder.appendNibble (s : Decoder) (d : DataBits) : Decoder :=
  { s with acc := (s.acc <<< 3) ||| d.setWidth 6, ncnt := s.ncnt + 1 }

/-- `acc <- 0`, `ncnt <- 0` (R91). -/
def Decoder.emptyGroup (s : Decoder) : Decoder := { s with acc := 0, ncnt := 0 }

/-! ### The output registers -/

/-- The port encoding of an event, or of no event (R68). On `stop`, `evData` and `evAck` carry no information
(90_conflicts.md C1, decision D7). -/
def Outputs.ofEvent : Option Event → Outputs
  | some (.start address direction acknowledged) =>
    { evValid := true, evKind := 0, evData := addressByte address direction, evAck := acknowledged }
  | some (.byte value acknowledged) =>
    { evValid := true, evKind := 1, evData := value, evAck := acknowledged }
  | some .stop => { evValid := true, evKind := 2, evData := 0, evAck := false }
  | none => Outputs.quiet

/-- The event a sink takes from the ports in one cycle: R68 read from right to left, with the address split of R65
(decision D6). A port word that R68 never drives (`ev_kind = 3`) is no event of R67 (DESIGN CHOICE, log 9). -/
def Outputs.event? (o : Outputs) : Option Event :=
  if o.evValid then
    if o.evKind = 0 then some (.start (addressField o.evData) (directionField o.evData) o.evAck)
    else if o.evKind = 1 then some (.byte o.evData o.evAck)
    else if o.evKind = 2 then some .stop
    else none
  else none

/-! ### The input ports -/

/-- The input ports at an edge at which the environment presents nothing: no reset and no symbol. -/
def PinSample.nothing : PinSample := { rst := false, symValid := false, sym := 0 }

/-- The input ports at this rising edge. When no sample is left the environment presents nothing: the decoder waits
(R131), a run ends when the environment stops presenting symbols (R141) (DEDUCED, log 3). -/
def State.sampledPins (s : State) : PinSample := s.pins.headD PinSample.nothing

/-- The edge has passed: its sample is gone, each symbol being consumed exactly once (R41). -/
def State.passEdge (s : State) : State := { s with pins := s.pins.tail }

/-! ### What an edge does to the registers (R139) -/

/-- An edge with `rst = 1`: every register takes its reset value (R130). The samples of later edges are the
environment's and stay (DEDUCED, log 6). -/
def State.resetRegisters (s : State) : State :=
  { s with toDecoder := Decoder.reset, toOutputs := Outputs.quiet }

/-- An edge that consumes a symbol whose symbol-level effect is `f`: the three state registers take its next state, the
output registers the encoding of its event, or 0 when it emits none (R139). -/
def State.consume (f : Decoder → Decoder × Option Event) (s : State) : State :=
  { s with toDecoder := (f s.toDecoder).1, toOutputs := Outputs.ofEvent (f s.toDecoder).2 }

/-- An edge without a symbol: `starting`, `acc` and `ncnt` hold, and no event is driven (R140). -/
def State.hold (s : State) : State := { s with toOutputs := Outputs.quiet }

end Sys2Proof.Machine
end

