-- ==== Sys2Proof/Machine/Data.lean ====
section
/-! DEFINITION. The data nibble Dk and group completion (41_data_symbols.md rules R90 to R93). -/

namespace Sys2Proof.Machine

/-- R92 `START_GROUP`: a group completed while `starting = 1` emits Start and clears `starting`, acknowledged or not;
every address is decoded alike. -/
def Decoder.startGroup (s : Decoder) (b8 : Byte) (ack : Bool) : Decoder × Option Event :=
  (s.clearStarting, some (.start (addressField b8) (directionField b8) ack))

/-- R93 `BYTE_GROUP`: a group completed while `starting = 0` emits Byte and writes no flag. -/
def Decoder.byteGroup (s : Decoder) (b8 : Byte) (ack : Bool) : Decoder × Option Event :=
  (s, some (.byte b8 ack))

/-- R91 `COMPLETE`: form the group, emit its one event, empty the accumulator whichever event it was. -/
def Decoder.complete (s : Decoder) (d : DataBits) : Decoder × Option Event :=
  let g9 := groupValue s.acc d
  let r := if s.starting then s.startGroup (groupByte g9) (groupAck g9)
    else s.byteGroup (groupByte g9) (groupAck g9)
  (r.1.emptyGroup, r.2)

/-- R90 `DATA`: the first two nibbles of a group accumulate, the third completes it. -/
def Decoder.data (d : DataBits) (s : Decoder) : Decoder × Option Event :=
  if s.ncnt < 2 then (s.appendNibble d, none) else s.complete d

/-- `Dk` (R90, R139). -/
def execDk (k : DataBits) (s : State) : Host.Outcome State Fault Refusal := .next (s.consume (Decoder.data k))

end Sys2Proof.Machine
end

