-- ==== Sys2Proof/Machine/Markers.lean ====
section
/-! DEFINITION. The marker symbols IDLE, S and P (40_marker_symbols.md rules R80, R81, R82). None of them touches the
group in progress (R32, R134). -/

namespace Sys2Proof.Machine

/-- R80 `IDLE(s)`: no field written, no event. -/
def Decoder.idle (s : Decoder) : Decoder × Option Event := (s, none)

/-- R81 `START_MARK(s)`: sets `starting`; the event waits for the next completed group. -/
def Decoder.startMark (s : Decoder) : Decoder × Option Event := (s.setStarting, none)

/-- R82 `STOP_MARK(s)`: emits Stop in the same step and sets `starting`; a partial group is kept (90_conflicts.md C2). -/
def Decoder.stopMark (s : Decoder) : Decoder × Option Event := (s.setStarting, some .stop)

/-- `IDLE` (R80, R139). -/
def execIdle (s : State) : Host.Outcome State Fault Refusal := .next (s.consume Decoder.idle)

/-- `S` (R81, R139). -/
def execS (s : State) : Host.Outcome State Fault Refusal := .next (s.consume Decoder.startMark)

/-- `P` (R82, R139). -/
def execP (s : State) : Host.Outcome State Fault Refusal := .next (s.consume Decoder.stopMark)

end Sys2Proof.Machine
end

