-- ==== Sys2Proof/Machine/Reserved.lean ====
section
/-! DEFINITION. The reserved symbols RSV3 to RSV7 (42_reserved_symbols.md rule R100): defined no-ops, neither faults nor
reported (R101). -/

namespace Sys2Proof.Machine

/-- R100 `RSVD(s)`: no field written, no event. -/
def Decoder.reserved (s : Decoder) : Decoder × Option Event := (s, none)

/-- `RSV3` (R100, R139). -/
def execRsv3 (s : State) : Host.Outcome State Fault Refusal := .next (s.consume Decoder.reserved)

/-- `RSV4` (R100, R139). -/
def execRsv4 (s : State) : Host.Outcome State Fault Refusal := .next (s.consume Decoder.reserved)

/-- `RSV5` (R100, R139). -/
def execRsv5 (s : State) : Host.Outcome State Fault Refusal := .next (s.consume Decoder.reserved)

/-- `RSV6` (R100, R139). -/
def execRsv6 (s : State) : Host.Outcome State Fault Refusal := .next (s.consume Decoder.reserved)

/-- `RSV7` (R100, R139). -/
def execRsv7 (s : State) : Host.Outcome State Fault Refusal := .next (s.consume Decoder.reserved)

end Sys2Proof.Machine
end

