-- ==== Sys2Proof/Machine/Dispatch.lean ====
section
/-! DEFINITION. One arm per instruction: the effect of a rising edge of `clk` that consumes the symbol (R73, R139). -/

namespace Sys2Proof.Machine

/-- What an edge that consumes the symbol `i` does (30_encoding.md rule R73; 70_reset_and_hazards.md rule R139). -/
def exec (i : Instr) (s : State) : Host.Outcome State Fault Refusal :=
  match i with
  | .idle => Sys2Proof.Machine.execIdle s
  | .s => Sys2Proof.Machine.execS s
  | .p => Sys2Proof.Machine.execP s
  | .rsv3 => Sys2Proof.Machine.execRsv3 s
  | .rsv4 => Sys2Proof.Machine.execRsv4 s
  | .rsv5 => Sys2Proof.Machine.execRsv5 s
  | .rsv6 => Sys2Proof.Machine.execRsv6 s
  | .rsv7 => Sys2Proof.Machine.execRsv7 s
  | .dk k => Sys2Proof.Machine.execDk k s

end Sys2Proof.Machine
end

