-- ==== Sys2Proof/Machine/Clock.lean ====
section
/-! DEFINITION. One rising edge of `clk` (70_reset_and_hazards.md rule R139). -/

namespace Sys2Proof.Machine

/-- At every rising edge the decoder does exactly one of three things, in this priority (R115, R139): reset; consume the
presented symbol; hold. -/
def clockEdge (s : State) : Host.Outcome State Fault Refusal :=
  if s.sampledPins.rst then .next s.passEdge.resetRegisters
  else if s.sampledPins.symValid then exec (decodeSymbol s.sampledPins.sym) s.passEdge
  else .next s.passEdge.hold

/-- The pins at an edge at which the source presents the symbol `sym` (R41, R118). -/
def PinSample.ofSymbol (sym : Symbol) : PinSample := { rst := false, symValid := true, sym := sym }

/-- The source presents the first 4-bit word of `w` (bits above `nbits` are 0) at the next edge, and after it whatever
it had to present (DESIGN CHOICE, log 8). -/
def State.presentWord (s : State) (nbits w : Nat) : State :=
  { s with pins := PinSample.ofSymbol (BitVec.ofNat 4 (w % 2 ^ nbits)) :: s.pins }

end Sys2Proof.Machine
end

