-- ==== Sys2Proof/Machine/Step.lean ====
section
/-! DEFINITION. The step: one rising edge of `clk` (70_reset_and_hazards.md rule R139; DEDUCED, log 1). -/

namespace Sys2Proof.Machine

/-- One step is one rising edge of `clk`. -/
def step (s : State) : Host.Outcome State Fault Refusal := clockEdge s

/-- `s` with an instruction presented to the symbol port at the next edge, so that the next step runs it (log 4, log 8). -/
def State.withFetchWord (s : State) (nbits w : Nat) : State := s.presentWord nbits w

end Sys2Proof.Machine
end

