-- ==== Sys2Proof/Machine/Source.lean ====
section
/-! DEFINITION. The symbol source: how raw bytes become symbols (20_memory.md rule R42), how a byte is presented as a
group (30_encoding.md rule R69), and which symbols of the input ports the decoder accepts (R41). -/

namespace Sys2Proof.Machine

/-- The two symbols of a raw captured byte, the high nibble first (R42). -/
def symbolsOfByte (r : Byte) : List Symbol := [highNibble r, lowNibble r]

/-- The symbol stream of a raw byte stream (R42). -/
def symbolsOfBytes (rs : List Byte) : List Symbol := rs.flatMap symbolsOfByte

/-- The raw bytes that carry a symbol stream: R42 inverted, an odd stream padded with one idle symbol
(95_test_vectors.md section 3; DEDUCED, log 13). -/
def packSymbols : List Symbol → List Byte
  | [] => []
  | [hi] => [hi ++ encodeSymbol .idle]
  | hi :: lo :: rest => (hi ++ lo) :: packSymbols rest

/-- The 9-bit group of a byte and its acknowledged flag: `g9 = b ++ (0 if a else 1)` (R69). -/
def groupOf (b : Byte) (acknowledged : Bool) : Group := b ++ (if acknowledged then 0#1 else 1#1)

/-- The data nibble of 3 data bits: `8 | d` (R69). -/
def dataNibble (d : DataBits) : Symbol := 8 ||| d.setWidth 4

/-- The three data nibbles that present a byte and its acknowledged flag, in stream order (R69). -/
def groupSymbols (b : Byte) (acknowledged : Bool) : List Symbol :=
  [dataNibble ((groupOf b acknowledged).extractLsb' 6 3), dataNibble ((groupOf b acknowledged).extractLsb' 3 3),
    dataNibble ((groupOf b acknowledged).extractLsb' 0 3)]

/-- The source presents a symbol stream at consecutive edges, with no pause (R118, R142). -/
def present (xs : List Symbol) : List PinSample := xs.map PinSample.ofSymbol

/-- Whether an edge consumes a symbol: `sym_valid = 1` and `rst = 0` (R41, R115). -/
def PinSample.accepts (p : PinSample) : Bool := p.symValid && !p.rst

/-- The symbol stream that the decoder consumes from its input ports, in edge order (R41). -/
def acceptedSymbols (ps : List PinSample) : List Symbol := (ps.filter PinSample.accepts).map PinSample.sym

end Sys2Proof.Machine
end

