-- ==== Sys2Proof/Machine/Assembly.lean ====
section
/-! DEFINITION. The statements of the mnemonic syntax for symbol streams (30_encoding.md rules R75, R76). -/

namespace Sys2Proof.Machine

/-- A statement of the mnemonic syntax. Its numbers are as written in the text, before any range check: whether they
fit is `Statement.wellFormed` (WellFormed.lean). -/
inductive Statement where
  /-- One mnemonic, one symbol (R75). -/
  | symbol (i : Instr)
  /-- `BYTE v, ACK` or `BYTE v, NAK` (R76). -/
  | byte (v : Nat) (acknowledged : Bool)
  /-- `ADDR a, W` or `ADDR a, R`, then `, ACK` or `, NAK` (R76). -/
  | addr (a : Nat) (direction : Direction) (acknowledged : Bool)
  /-- `START a, W|R, ACK|NAK` (R76). -/
  | start (a : Nat) (direction : Direction) (acknowledged : Bool)
  /-- `STOP` (R76). -/
  | stop
  /-- `RAW xx` (R76). -/
  | raw (xx : Nat)
deriving DecidableEq, Repr

end Sys2Proof.Machine
end

