-- ==== Sys2Proof/WellFormed.lean ====
section
/-! DEFINITION. Well-formedness. An instruction's operand type is exactly as wide as its field (R61: `d` has 3 bits), so
every term of `Instr` is well-formed and an ill-formed one cannot be written. The checks that can fail are on the numbers
of the mnemonic syntax (R76). -/

namespace Sys2Proof

/-- Every instruction is well-formed: no symbol value is illegal (R70) and each field's type has the field's width. -/
def Instr.wellFormed : Instr → Bool
  | .idle => true
  | .s => true
  | .p => true
  | .rsv3 => true
  | .rsv4 => true
  | .rsv5 => true
  | .rsv6 => true
  | .rsv7 => true
  | .dk k => decide (k.toNat < 8)

/-- The numbers of a statement fit: a byte is 8 bits, an address 7 (R8, R67, R76). -/
def Machine.Statement.wellFormed : Machine.Statement → Bool
  | .symbol i => i.wellFormed
  | .byte v _ => decide (v < 256)
  | .addr a _ _ => decide (a < 128)
  | .start a _ _ => decide (a < 128)
  | .stop => true
  | .raw xx => decide (xx < 256)

end Sys2Proof
end

