-- ==== Sys2Proof/Machine/Assembler.lean ====
section
/-! DEFINITION. The mnemonic syntax of symbol streams and its expansions (30_encoding.md rules R75, R76; decision D17),
and the two hexadecimal notations of 00_scope.md rule R13. Text is a list of characters. What the rules leave open of
the text (which characters break lines, how a number is written) is a DESIGN CHOICE, log 11. -/

namespace Sys2Proof.Machine

/-- A word of the text: the characters between two separators. -/
abbrev Token := List Char

/-- Why a text is no symbol stream. -/
inductive AssemblyError where
  /-- A word stands where a mnemonic or a pseudo-instruction is expected and is none. -/
  | unknownMnemonic
  /-- The text ends before a pseudo-instruction's operands do. -/
  | missingOperand
  /-- An operand is not of the kind the pseudo-instruction takes. -/
  | badOperand
  /-- A number does not fit its field. -/
  | outOfRange
deriving DecidableEq, Repr

/-! ### Expansion (R75, R76) -/

/-- The symbols a statement stands for (R75, R76). -/
def Statement.expand : Statement → List Symbol
  | .symbol i => encode i
  | .byte v acknowledged => groupSymbols (BitVec.ofNat 8 v) acknowledged
  | .addr a direction acknowledged => groupSymbols (addressByte (BitVec.ofNat 7 a) direction) acknowledged
  | .start a direction acknowledged =>
    encode .s ++ groupSymbols (addressByte (BitVec.ofNat 7 a) direction) acknowledged
  | .stop => encode .p
  | .raw xx => symbolsOfByte (BitVec.ofNat 8 xx)

/-! ### Words of the text -/

/-- Line breaks (log 11). -/
def isLineBreak (c : Char) : Bool := c == '\n' || c == '\r'

/-- Mnemonics are separated by spaces, commas or line breaks (R75). Which characters break lines is log 11. -/
def isSeparator (c : Char) : Bool := c == ' ' || c == ',' || isLineBreak c

/-- The word read so far, held in reverse, if there is one. -/
def flushToken (current : Token) : List Token := if current.isEmpty then [] else [current.reverse]

/-- The words of a text. `;` starts a comment to the end of the line (R75): the first argument says that the text
stands in one. Any run of separators parts two words, so a comma between the operands of a pseudo-instruction, which
R76 writes, may be left out or be a space or a line break (DESIGN CHOICE, log 16). -/
def tokens : Bool → Token → List Char → List Token
  | _, current, [] => flushToken current
  | true, current, c :: cs => if isLineBreak c then tokens false current cs else tokens true current cs
  | false, current, c :: cs =>
    if c == ';' then flushToken current ++ tokens true [] cs
    else if isSeparator c then flushToken current ++ tokens false [] cs
    else tokens false (c :: current) cs

/-- A text that only parts words: one separator, or a comment with its line break, or several of these one after the
other (R75). That a line feed and a carriage return are the line breaks is log 11 (DESIGN CHOICE). -/
inductive Separation : List Char → Prop where
  /-- A space, a comma or a line break. -/
  | one (c : Char) (h : c = ' ' ∨ c = ',' ∨ c = '\n' ∨ c = '\r') : Separation [c]
  /-- `;`, the comment, and the line break that ends it. -/
  | comment (body : List Char) (lineBreak : Char) (hbody : ∀ c ∈ body, c ≠ '\n' ∧ c ≠ '\r')
    (h : lineBreak = '\n' ∨ lineBreak = '\r') : Separation (';' :: body ++ [lineBreak])
  /-- Several, one after the other. -/
  | append (a b : List Char) (ha : Separation a) (hb : Separation b) : Separation (a ++ b)

/-- The value of a hexadecimal digit; `A` to `F` are 10 to 15 (R10). -/
def hexDigit? (c : Char) : Option Nat :=
  if 48 ≤ c.toNat ∧ c.toNat ≤ 57 then some (c.toNat - 48)
  else if 65 ≤ c.toNat ∧ c.toNat ≤ 70 then some (c.toNat - 55)
  else none

/-- The value of digits in a base, the most significant first, after the value so far. -/
def digitsFrom? (base : Nat) : Nat → List Char → Option Nat
  | value, [] => some value
  | value, c :: cs =>
    match hexDigit? c with
    | some d => if d < base then digitsFrom? base (value * base + d) cs else none
    | none => none

/-- The value of one or more digits in a base. -/
def digits? (base : Nat) (cs : List Char) : Option Nat := if cs.isEmpty then none else digitsFrom? base 0 cs

/-- A number: `0x..` is hexadecimal, `0b..` binary (R10), and plain digits are decimal (log 11). -/
def number? : Token → Option Nat
  | '0' :: 'x' :: cs => digits? 16 cs
  | '0' :: 'b' :: cs => digits? 2 cs
  | cs => digits? 10 cs

/-- Two hexadecimal digits: a raw byte (R13, R76). -/
def twoHexDigits? (t : Token) : Option Nat := if t.length = 2 then digits? 16 t else none

/-- `ACK` or `NAK` (R12, R76). -/
def acknowledged? (t : Token) : Option Bool :=
  if t = ['A', 'C', 'K'] then some true else if t = ['N', 'A', 'K'] then some false else none

/-- `R` or `W` (R76). -/
def direction? (t : Token) : Option Direction :=
  if t = ['R'] then some .read else if t = ['W'] then some .write else none

/-- The mnemonic of a symbol (R75). -/
def mnemonic : Instr → Token
  | .idle => ['I', 'D', 'L', 'E']
  | .s => ['S']
  | .p => ['P']
  | .rsv3 => ['R', 'S', 'V', '3']
  | .rsv4 => ['R', 'S', 'V', '4']
  | .rsv5 => ['R', 'S', 'V', '5']
  | .rsv6 => ['R', 'S', 'V', '6']
  | .rsv7 => ['R', 'S', 'V', '7']
  | .dk k => ['D', Char.ofNat (48 + k.toNat)]

/-- The sixteen symbols, in the order of their values. -/
def allInstrs : List Instr :=
  [.idle, .s, .p, .rsv3, .rsv4, .rsv5, .rsv6, .rsv7, .dk 0, .dk 1, .dk 2, .dk 3, .dk 4, .dk 5, .dk 6, .dk 7]

/-- The symbol that a word is the mnemonic of (R75). -/
def instr? (t : Token) : Option Instr := allInstrs.find? (fun i => mnemonic i == t)

/-! ### Statements of the text -/

/-- The pseudo-instructions (R76). -/
inductive Pseudo where
  | byte
  | addr
  | start
  | stop
  | raw
deriving DecidableEq, Repr

/-- The pseudo-instruction that a word names (R76). -/
def pseudo? (t : Token) : Option Pseudo :=
  if t = ['B', 'Y', 'T', 'E'] then some .byte
  else if t = ['A', 'D', 'D', 'R'] then some .addr
  else if t = ['S', 'T', 'A', 'R', 'T'] then some .start
  else if t = ['S', 'T', 'O', 'P'] then some .stop
  else if t = ['R', 'A', 'W'] then some .raw
  else none

/-- `BYTE v, ACK|NAK` from its two operands. -/
def byteStatement? (v a : Token) : Option Statement :=
  match number? v, acknowledged? a with
  | some v, some a => some (.byte v a)
  | _, _ => none

/-- `ADDR a, W|R, ACK|NAK` from its three operands. -/
def addrStatement? (a d k : Token) : Option Statement :=
  match number? a, direction? d, acknowledged? k with
  | some a, some d, some k => some (.addr a d k)
  | _, _, _ => none

/-- `START a, W|R, ACK|NAK` from its three operands. -/
def startStatement? (a d k : Token) : Option Statement :=
  match number? a, direction? d, acknowledged? k with
  | some a, some d, some k => some (.start a d k)
  | _, _, _ => none

/-- A statement that was read, before the ones that follow it; `none` is an operand that will not do. -/
def consStatement (st : Option Statement) (rest : Except AssemblyError (List Statement)) :
    Except AssemblyError (List Statement) :=
  match st with
  | none => .error .badOperand
  | some st =>
    match rest with
    | .ok sts => .ok (st :: sts)
    | .error e => .error e

/-- The statements of a list of words (R75, R76). -/
def statements : List Token → Except AssemblyError (List Statement)
  | [] => .ok []
  | t :: rest =>
    match instr? t with
    | some i => consStatement (some (.symbol i)) (statements rest)
    | none =>
      match pseudo? t with
      | none => .error .unknownMnemonic
      | some .stop => consStatement (some .stop) (statements rest)
      | some .raw =>
        match rest with
        | xx :: rest => consStatement ((twoHexDigits? xx).map Statement.raw) (statements rest)
        | [] => .error .missingOperand
      | some .byte =>
        match rest with
        | v :: a :: rest => consStatement (byteStatement? v a) (statements rest)
        | _ => .error .missingOperand
      | some .addr =>
        match rest with
        | a :: d :: k :: rest => consStatement (addrStatement? a d k) (statements rest)
        | _ => .error .missingOperand
      | some .start =>
        match rest with
        | a :: d :: k :: rest => consStatement (startStatement? a d k) (statements rest)
        | _ => .error .missingOperand

/-- The symbol stream of a text in the mnemonic syntax (R75, R76). -/
def assemble (text : List Char) : Except AssemblyError (List Symbol) :=
  match statements (tokens false [] text) with
  | .error e => .error e
  | .ok sts => if sts.all Statement.wellFormed then .ok (sts.flatMap Statement.expand) else .error .outOfRange

/-! ### The hexadecimal notations of R13

R13 names spaces only between the numbers. That these readers also take commas, line breaks and `;` comments there, as
the mnemonic syntax of R75 does, is a DESIGN CHOICE (log 17). -/

/-- One symbol: one hexadecimal digit (R13). -/
def hexSymbol? : Token → Option Symbol
  | [c] => (hexDigit? c).map (BitVec.ofNat 4)
  | _ => none

/-- A symbol stream in the notation of R13: one hexadecimal digit per symbol, separated by spaces. Commas, line breaks
and comments are taken too (DESIGN CHOICE, log 17). -/
def hexStream? (text : List Char) : Option (List Symbol) := (tokens false [] text).mapM hexSymbol?

/-- A raw byte stream in the notation of R13: two-digit hexadecimal numbers, separated by spaces. Commas, line breaks
and comments are taken too (DESIGN CHOICE, log 17). -/
def rawStream? (text : List Char) : Option (List Byte) :=
  (tokens false [] text).mapM (fun t => (twoHexDigits? t).map (BitVec.ofNat 8))

end Sys2Proof.Machine
end

