-- ==== Sys2Proof/Machine/Document.lean ====
section
/-! DEFINITION. The document's own decoder, with its unbounded `bits` and its `nbits` (10_state.md rules R20, R25;
41_data_symbols.md rule R95), from the sentences of its section 4.4 that rules R80 to R93 and R100 quote. The machine
does not use it: it is what R95 compares the registers `acc` and `ncnt` with. -/

namespace Sys2Proof.Machine

/-- The document's state: "`starting: bool`, `bits: unsigned accumulator`, `nbits: count of bits accumulated`" (R20). -/
structure Document where
  starting : Bool
  bits : Nat
  nbits : Nat
deriving DecidableEq, Repr

/-- The document's initial state, for an initial value of `bits`, of which it says nothing (N3, I6, decision D10). -/
def Document.initial (bits : Nat) : Document := { starting := true, bits := bits, nbits := 0 }

/-- The event of a completed group: `b8 = bits >> 1`, `ack = !(bits & 1)`; a Start has `address = b8 >> 1` and
`direction = (b8 & 1) ? Read : Write` (R91 to R93). The fields have the widths of R67; what stands above them is cut off
(DEDUCED from decision D10, log 10). -/
def Document.event (starting : Bool) (bits : Nat) : Event :=
  let b8 := bits >>> 1
  let ack := !(bits &&& 1 == 1)
  if starting then
    .start (BitVec.ofNat 7 (b8 >>> 1)) (if b8 &&& 1 == 1 then .read else .write) ack
  else .byte (BitVec.ofNat 8 b8) ack

/-- The document's step: "Per symbol:" and its five cases in their order (R73). -/
def Document.step (s : Document) (sym : Symbol) : Document × Option Event :=
  let symbol := sym.toNat
  if symbol = 0 then (s, none)
  else if symbol = 1 then ({ s with starting := true }, none)
  else if symbol = 2 then ({ s with starting := true }, some .stop)
  else if 8 ≤ symbol ∧ symbol ≤ 15 then
    let bits := (s.bits <<< 3) ||| (symbol &&& 7)
    let nbits := s.nbits + 3
    if nbits = 9 then
      ({ starting := false, bits := 0, nbits := 0 }, some (Document.event s.starting bits))
    else ({ s with bits := bits, nbits := nbits }, none)
  else (s, none)

/-- The document's decoder over a finite stream: its final state and its events. -/
def Document.run (s : Document) : List Symbol → Document × List Event
  | [] => (s, [])
  | sym :: xs =>
    let r := s.step sym
    let q := r.1.run xs
    (q.1, r.2.toList ++ q.2)

end Sys2Proof.Machine
end

