-- ==== Sys2Proof/Machine/Sink.lean ====
section
/-! DEFINITION. The event sink: what the environment reads from the output ports (60_exceptions.md rule R118;
70_reset_and_hazards.md rules R137, R139). The outputs in a cycle are the output registers just after its edge (R34). -/

namespace Sys2Proof.Machine

/-- The events that are on the outputs in the first `k` cycles, in order: what a sink that keeps its duty gets (R118). -/
def eventsSeen : Nat → State → List Event
  | 0, _ => []
  | k + 1, s =>
    match step s with
    | .next t => t.toOutputs.event?.toList ++ eventsSeen k t
    | .fault _ => []
    | .refused _ => []

/-- The events a sink gets that reads the outputs in cycle `i` only when entry `i` of the list is true: an event not
taken in its one cycle is lost (R137, decision D12; DESIGN CHOICE, log 12). -/
def eventsTaken : List Bool → State → List Event
  | [], _ => []
  | reads :: rest, s =>
    match step s with
    | .next t => (if reads then t.toOutputs.event?.toList else []) ++ eventsTaken rest t
    | .fault _ => []
    | .refused _ => []

end Sys2Proof.Machine
end

