-- ==== Sys2Proof/Machine/SymbolLevel.lean ====
section
/-! DEFINITION. The symbol level, which is normative (00_scope.md rule R7): `Step` and `Run` of 30_encoding.md rules R73
and R74, over the state of 10_state.md rule R20. The clocked machine calls the same symbol-level effects through
`State.consume`. -/

namespace Sys2Proof.Machine

/-- R73 `Step(s, sym)`: dispatch on the whole symbol value. -/
def Decoder.step (s : Decoder) (sym : Symbol) : Decoder × Option Event :=
  if sym.toNat = 0 then s.idle
  else if sym.toNat = 1 then s.startMark
  else if sym.toNat = 2 then s.stopMark
  else if sym.toNat ≤ 7 then s.reserved
  else Decoder.data (dataField sym) s

/-- R74 `Run(s, xs)`: the state after a finite stream, and its events in order. -/
def Decoder.run (s : Decoder) : List Symbol → Decoder × List Event
  | [] => (s, [])
  | sym :: xs =>
    let r := s.step sym
    let q := r.1.run xs
    (q.1, r.2.toList ++ q.2)

/-- The run of a raw byte stream is the run of its symbol stream (R74, R42). -/
def Decoder.runBytes (s : Decoder) (rs : List Byte) : Decoder × List Event := s.run (symbolsOfBytes rs)

end Sys2Proof.Machine
end

