-- ==== Sys2Proof/Safety.lean ====
section
/-! DEFINITION. What holds of the decoder between edges, in the terms the statements use. -/

namespace Sys2Proof.Machine

/-- R24: between steps `acc < 2^(3 * ncnt)`. -/
abbrev Decoder.Inv (s : Decoder) : Prop := s.acc.toNat < 2 ^ (3 * s.ncnt.val)

/-- The output registers hold the encoding of an event or of no event (R68): in particular `ev_kind = 3` is never
driven, and without an event all four are 0 (R34). -/
abbrev Outputs.Legal (o : Outputs) : Prop := Outputs.ofEvent o.event? = o

/-- The event on the outputs, if any, fits the state that its symbol left: a completed group leaves `starting`, `acc` and
`ncnt` at 0 (R91 to R93), a stop marker leaves `starting` at 1 (R82). -/
def EventFits : Option Event → Decoder → Prop
  | none, _ => True
  | some .stop, s => s.starting = true
  | some (.start _ _ _), s => s = { starting := false, acc := 0, ncnt := 0 }
  | some (.byte _ _), s => s = { starting := false, acc := 0, ncnt := 0 }

/-- What every edge keeps. -/
structure State.Inv (s : State) : Prop where
  group : s.toDecoder.Inv
  outputs : s.toOutputs.Legal
  fits : EventFits s.toOutputs.event? s.toDecoder

end Sys2Proof.Machine
end

