-- ==== Sys2Proof/Certificates/Slice0/Obligations.lean ====
section
/-! DEFINITION. The statements for the provers. Each docstring says which rule of spec/ the statement formalises. A state
written `{ s with … }` keeps every field that it does not name: that is the frame of the instruction. -/

open Sys2Proof Sys2Proof.Machine

/-! ### Encoding -/

/-- R63: the map from symbol value to operation, written out value by value. -/
def Obligations.SymbolMapValueByValue : Prop :=
  decodeSymbol 0b0000#4 = .idle ∧ decodeSymbol 0b0001#4 = .s ∧ decodeSymbol 0b0010#4 = .p ∧
  decodeSymbol 0b0011#4 = .rsv3 ∧ decodeSymbol 0b0100#4 = .rsv4 ∧ decodeSymbol 0b0101#4 = .rsv5 ∧
  decodeSymbol 0b0110#4 = .rsv6 ∧ decodeSymbol 0b0111#4 = .rsv7 ∧
  decodeSymbol 0b1000#4 = .dk 0b000#3 ∧ decodeSymbol 0b1001#4 = .dk 0b001#3 ∧
  decodeSymbol 0b1010#4 = .dk 0b010#3 ∧ decodeSymbol 0b1011#4 = .dk 0b011#3 ∧
  decodeSymbol 0b1100#4 = .dk 0b100#3 ∧ decodeSymbol 0b1101#4 = .dk 0b101#3 ∧
  decodeSymbol 0b1110#4 = .dk 0b110#3 ∧ decodeSymbol 0b1111#4 = .dk 0b111#3

/-- R63: every one of the 16 values is in exactly one row of the table, and it is the row of the instruction it decodes
to. -/
def Obligations.EverySymbolInExactlyOneRow : Prop :=
  ∀ sym : Symbol, opcodeTable.filter (fun r => r.accepts sym) = [opcodeRow (decodeSymbol sym)]

/-- Every well-formed instruction is read back from its word, whatever follows it, and every symbol is the word of the
instruction it decodes to (R60, R61, R63). -/
def Obligations.DecodeAndEncodeAgree : Prop :=
  (∀ (i : Instr) (rest : List Symbol), i.wellFormed = true → decode (encode i ++ rest) = .ok (i, rest)) ∧
  (∀ sym : Symbol, encode (decodeSymbol sym) = [sym])

/-- Decoding and encoding agree on whole streams, from instructions to raw bytes and back: no bit of a raw byte stream
is dropped by the nibble split of R42 or by decoding (R42, R63, R74). -/
def Obligations.RawStreamDecodesAndEncodesBack : Prop :=
  (∀ is : List Instr, decodeStream (encodeStream is) = is) ∧
  (∀ rs : List Byte, packSymbols (encodeStream (decodeStream (symbolsOfBytes rs))) = rs) ∧
  (∀ is : List Instr, decodeStream (symbolsOfBytes (packSymbols (encodeStream is))) =
    is ++ (if is.length % 2 = 0 then [] else [.idle]))

/-- R42: a raw byte `16*h + l` yields the symbol `h` first, then `l`, and the symbol stream of a byte stream takes the
bytes in order. -/
def Obligations.RawBytesSplitHighNibbleFirst : Prop :=
  (∀ h l : Symbol, symbolsOfByte (BitVec.ofNat 8 (16 * h.toNat + l.toNat)) = [h, l]) ∧
  (∀ (r : Byte) (rs : List Byte),
    symbolsOfBytes (r :: rs) = BitVec.ofNat 4 (r.toNat / 16) :: BitVec.ofNat 4 (r.toNat % 16) :: symbolsOfBytes rs)

/-- R94: the fields of a group as numbers. -/
def Obligations.GroupFieldsAsNumbers : Prop :=
  ∀ d0 d1 d2 : DataBits,
    let g9 := groupValue (d0 ++ d1) d2
    g9.toNat = 64 * d0.toNat + 8 * d1.toNat + d2.toNat ∧
    (groupByte g9).toNat = 32 * d0.toNat + 4 * d1.toNat + d2.toNat / 2 ∧
    (groupAck g9 = true ↔ d2.toNat % 2 = 0) ∧
    (addressField (groupByte g9)).toNat = 16 * d0.toNat + 2 * d1.toNat + d2.toNat / 4 ∧
    (directionField (groupByte g9) = .read ↔ d2.toNat / 2 % 2 = 1) ∧
    (directionField (groupByte g9) = .write ↔ d2.toNat / 2 % 2 = 0)

/-- R68: the port encoding of each event and of no event, with the direction bit 1 for Read and 0 for Write. On Stop the
data and acknowledged outputs carry no information: nothing else is said of them than that R68 drives them to 0. -/
def Obligations.PortEncodingOfEvents : Prop :=
  (∀ (a : Addr) (k : Bool), Outputs.ofEvent (some (.start a .read k)) =
    { evValid := true, evKind := 0b00#2, evData := a ++ 1#1, evAck := k }) ∧
  (∀ (a : Addr) (k : Bool), Outputs.ofEvent (some (.start a .write k)) =
    { evValid := true, evKind := 0b00#2, evData := a ++ 0#1, evAck := k }) ∧
  (∀ (v : Byte) (k : Bool), Outputs.ofEvent (some (.byte v k)) =
    { evValid := true, evKind := 0b01#2, evData := v, evAck := k }) ∧
  Outputs.ofEvent (some .stop) = { evValid := true, evKind := 0b10#2, evData := 0, evAck := false } ∧
  Outputs.ofEvent none = { evValid := false, evKind := 0, evData := 0, evAck := false } ∧
  (∀ e : Option Event, (Outputs.ofEvent e).evKind ≠ 3)

/-- The abstract event is recovered from the ports without loss, so no two events look alike (R65, R68, decision D6). -/
def Obligations.PortEncodingLosesNothing : Prop :=
  (∀ e : Option Event, (Outputs.ofEvent e).event? = e) ∧
  (∀ e e' : Option Event, Outputs.ofEvent e = Outputs.ofEvent e' → e = e')

/-- R69: presenting a byte as three data nibbles is a bijection onto the groups of three data nibbles, and its group
value is the byte followed by the inverted acknowledged flag. For an address group the byte is the address with the
direction bit below it, 1 for Read. -/
def Obligations.GroupSymbolsAreABijection : Prop :=
  (∀ (b : Byte) (a : Bool), ∃ d0 d1 d2 : DataBits,
    groupSymbols b a = [8 ||| d0.setWidth 4, 8 ||| d1.setWidth 4, 8 ||| d2.setWidth 4] ∧
    64 * d0.toNat + 8 * d1.toNat + d2.toNat = 2 * b.toNat + (if a then 0 else 1)) ∧
  (∀ d0 d1 d2 : DataBits, ∃ (b : Byte) (a : Bool),
    groupSymbols b a = [8 ||| d0.setWidth 4, 8 ||| d1.setWidth 4, 8 ||| d2.setWidth 4]) ∧
  (∀ (b b' : Byte) (a a' : Bool), groupSymbols b a = groupSymbols b' a' → b = b' ∧ a = a') ∧
  (∀ (a : Addr) (direction : Direction),
    (addressByte a direction).toNat = 2 * a.toNat + (if direction = .read then 1 else 0))

/-! ### What each symbol does: its result and its frame -/

/-- R80: symbol 0 is IDLE; it changes no state and drives no event, and any number of idle symbols in a row has the same
effect as none. -/
def Obligations.IdleChangesNothing : Prop :=
  decodeSymbol 0b0000#4 = .idle ∧
  (∀ s : State, exec .idle s = .next { s with evValid := false, evKind := 0, evData := 0, evAck := false }) ∧
  (∀ (d : Decoder) (n : Nat) (xs : List Symbol), d.run (List.replicate n 0b0000#4 ++ xs) = d.run xs)

/-- R81: symbol 1 is the start marker; it sets `starting`, keeps the group in progress and drives no event. When
`starting` is already 1 it changes nothing, and after it the data nibbles that fill the group in progress give one
Start. -/
def Obligations.StartMarkerSetsStarting : Prop :=
  decodeSymbol 0b0001#4 = .s ∧
  (∀ s : State, exec .s s =
    .next { s with starting := true, evValid := false, evKind := 0, evData := 0, evAck := false }) ∧
  (∀ d : Decoder, d.starting = true → d.step 0b0001#4 = (d, none)) ∧
  (∀ (d : Decoder) (ks : List DataBits), d.ncnt.val + ks.length = 3 →
    ∃ address direction acknowledged,
      (d.run (0b0001#4 :: ks.map dataNibble)).2 = [.start address direction acknowledged])

/-- R82: symbol 2 is the stop marker; it sets `starting`, keeps the group in progress and drives the event Stop, every
time. After it the data nibbles that fill the group in progress give one Start. The event is stated as what the port
encoding of R68 drives for Stop: nothing is claimed of its data and acknowledged outputs (90_conflicts.md C1). -/
def Obligations.StopMarkerEmitsStop : Prop :=
  decodeSymbol 0b0010#4 = .p ∧
  (∀ s : State, exec .p s =
    .next { s with starting := true, toOutputs := Outputs.ofEvent (some .stop) }) ∧
  (∀ d : Decoder, (d.run [0b0010#4, 0b0010#4]).2 = [.stop, .stop]) ∧
  (∀ (d : Decoder) (ks : List DataBits), d.ncnt.val + ks.length = 3 →
    ∃ address direction acknowledged,
      (d.run (0b0010#4 :: ks.map dataNibble)).2 = [.stop, .start address direction acknowledged])

/-- R100: symbols 3 to 7 are reserved; each changes no state and drives no event, in every state. -/
def Obligations.ReservedSymbolsChangeNothing : Prop :=
  (decodeSymbol 0b0011#4 = .rsv3 ∧ decodeSymbol 0b0100#4 = .rsv4 ∧ decodeSymbol 0b0101#4 = .rsv5 ∧
    decodeSymbol 0b0110#4 = .rsv6 ∧ decodeSymbol 0b0111#4 = .rsv7) ∧
  (∀ s : State,
    exec .rsv3 s = .next { s with evValid := false, evKind := 0, evData := 0, evAck := false } ∧
    exec .rsv4 s = .next { s with evValid := false, evKind := 0, evData := 0, evAck := false } ∧
    exec .rsv5 s = .next { s with evValid := false, evKind := 0, evData := 0, evAck := false } ∧
    exec .rsv6 s = .next { s with evValid := false, evKind := 0, evData := 0, evAck := false } ∧
    exec .rsv7 s = .next { s with evValid := false, evKind := 0, evData := 0, evAck := false }) ∧
  (∀ (d : Decoder) (sym : Symbol), 3 ≤ sym.toNat → sym.toNat ≤ 7 → d.step sym = (d, none))

/-- The first two nibbles of a group (R90): symbol `8 + k` appends its data bits, counts one nibble more and drives no
event; `starting` is not written. With the invariant of R24 no bit is lost: the new `acc` is `8 * acc + k`. -/
def Obligations.FirstTwoNibblesAccumulate : Prop :=
  (∀ k : DataBits, decodeSymbol (BitVec.ofNat 4 (8 + k.toNat)) = .dk k) ∧
  (∀ (k : DataBits) (s : State), s.ncnt = 0 → exec (.dk k) s =
    .next { s with acc := (s.acc <<< 3) ||| k.setWidth 6, ncnt := 1,
                   evValid := false, evKind := 0, evData := 0, evAck := false }) ∧
  (∀ (k : DataBits) (s : State), s.ncnt = 1 → exec (.dk k) s =
    .next { s with acc := (s.acc <<< 3) ||| k.setWidth 6, ncnt := 2,
                   evValid := false, evKind := 0, evData := 0, evAck := false }) ∧
  (∀ (k : DataBits) (d : Decoder), d.Inv → d.ncnt ≠ 2 → (d.step (BitVec.ofNat 4 (8 + k.toNat))).1.acc.toNat =
    8 * d.acc.toNat + k.toNat)

/-- The third nibble of a group (R91, with R92 and R93): one event is driven, carrying the 8 bits above the acknowledge
bit and that bit inverted; its kind is Start if `starting` was 1 and Byte otherwise; `acc` and `ncnt` become 0, and
`starting` is 0 whichever event it was. -/
def Obligations.ThirdNibbleCompletesGroup : Prop :=
  ∀ (k : DataBits) (s : State), s.ncnt = 2 → exec (.dk k) s =
    .next { s with starting := false, acc := 0, ncnt := 0, evValid := true,
                   evKind := (if s.starting then 0 else 1),
                   evData := BitVec.ofNat 8 (4 * s.acc.toNat + k.toNat / 2),
                   evAck := decide (k.toNat % 2 = 0) }

/-- R92: a group completed while `starting = 1` emits Start with the upper 7 bits as address and the next bit as
direction, and clears `starting`, acknowledged or not. -/
def Obligations.GroupWhileStartingEmitsStart : Prop :=
  ∀ (k : DataBits) (s : State), s.ncnt = 2 → s.starting = true →
    ∃ t, exec (.dk k) s = .next t ∧ t.starting = false ∧ t.acc = 0 ∧ t.ncnt = 0 ∧ t.pins = s.pins ∧
      t.toOutputs.event? = some (.start (BitVec.ofNat 7 (2 * s.acc.toNat + k.toNat / 4))
        (if k.toNat / 2 % 2 = 1 then .read else .write) (decide (k.toNat % 2 = 0)))

/-- R93: a group completed while `starting = 0` emits Byte with all 8 bits as its value, and leaves `starting` at 0. -/
def Obligations.GroupOtherwiseEmitsByte : Prop :=
  ∀ (k : DataBits) (s : State), s.ncnt = 2 → s.starting = false →
    ∃ t, exec (.dk k) s = .next t ∧ t.starting = false ∧ t.acc = 0 ∧ t.ncnt = 0 ∧ t.pins = s.pins ∧
      t.toOutputs.event? =
        some (.byte (BitVec.ofNat 8 (4 * s.acc.toNat + k.toNat / 2)) (decide (k.toNat % 2 = 0)))

/-! ### One edge of the clock -/

/-- R139: at every rising edge the decoder does exactly one of three things, in this priority: reset; apply `Step` to the
presented symbol and load the encoding of its event, or zeros; hold the state and load zeros. -/
def Obligations.EdgeDoesOneOfThreeThings : Prop :=
  ∀ (s : State) (p : PinSample) (rest : List PinSample), s.pins = p :: rest →
    step s = .next (
      if p.rst then
        { starting := true, acc := 0, ncnt := 0,
          evValid := false, evKind := 0, evData := 0, evAck := false, pins := rest }
      else if p.symValid then
        { toDecoder := (s.toDecoder.step p.sym).1,
          toOutputs := (match (s.toDecoder.step p.sym).2 with
            | some e => Outputs.ofEvent (some e)
            | none => { evValid := false, evKind := 0, evData := 0, evAck := false }),
          pins := rest }
      else
        { toDecoder := s.toDecoder,
          toOutputs := { evValid := false, evKind := 0, evData := 0, evAck := false }, pins := rest })

/-- R139, R73: an edge that presents a symbol and no reset executes the instruction the symbol decodes to, on the state
with that sample taken away. -/
def Obligations.StepRunsDecodedInstruction : Prop :=
  ∀ (s : State) (sym : Symbol) (rest : List PinSample),
    s.pins = { rst := false, symValid := true, sym := sym } :: rest →
      step s = exec (decodeSymbol sym) { s with pins := rest }

/-- Presenting an instruction with `State.withFetchWord` makes the next step run what the decoder reads from its word,
on the unchanged state. It is about the model's own fetch interface (log 8). -/
def Obligations.FetchWordRunsNext : Prop :=
  ∀ (s : State) (nbits w : Nat) (i : Instr), decodeTableWord nbits w = some i →
    step (s.withFetchWord nbits w) = exec i s

/-- R130, R115: an edge with `rst = 1` gives every register its reset value, whatever the registers held and whatever
`sym_valid` and `sym` are; the symbol is not consumed and its event is not emitted. -/
def Obligations.ResetWinsOverSymbol : Prop :=
  ∀ (s : State) (symValid : Bool) (sym : Symbol) (rest : List PinSample),
    s.pins = { rst := true, symValid := symValid, sym := sym } :: rest →
      step s = .next { starting := true, acc := 0, ncnt := 0,
                       evValid := false, evKind := 0, evData := 0, evAck := false, pins := rest }

/-- An edge without a symbol holds `starting`, `acc` and `ncnt`, drives no event and ignores `sym` (R139, R140). -/
def Obligations.PauseHoldsState : Prop :=
  ∀ (s : State) (sym : Symbol) (rest : List PinSample),
    s.pins = { rst := false, symValid := false, sym := sym } :: rest →
      step s = .next { s with evValid := false, evKind := 0, evData := 0, evAck := false, pins := rest }

/-- The end of a run: when nothing more is presented, a group in progress stays, and nothing is flushed or reported, for
any number of edges (R141). That nothing is presented once `pins` is empty is the model's choice (log 3). -/
def Obligations.EndOfRunFlushesNothing : Prop :=
  ∀ (s : State) (k : Nat), s.pins = [] →
    Host.Core.run Sys2Proof.core (k + 1) s =
      .next { s with evValid := false, evKind := 0, evData := 0, evAck := false } ∧
    eventsSeen k s = []

/-- R35: the registers of the machine after reset. (`pins` is the model's own field, log 4, and is not stated here.) -/
def Obligations.ResetRegisterValues : Prop :=
  State.reset.starting = true ∧ State.reset.acc = 0 ∧ State.reset.ncnt = 0 ∧ State.reset.evValid = false ∧
  State.reset.evKind = 0 ∧ State.reset.evData = 0 ∧ State.reset.evAck = false

/-- R110: no symbol faults in any state, and every edge completes; each takes exactly one sample of the input ports. -/
def Obligations.EverySymbolAndEdgeCompletes : Prop :=
  (∀ (i : Instr) (s : State), ∃ t, exec i s = .next t ∧ t.pins = s.pins) ∧
  (∀ s : State, ∃ t, step s = .next t ∧ t.pins = s.pins.tail)

/-- An event is on the outputs just after an edge exactly when that edge consumed a symbol that emits one: a stop marker,
or the third data nibble of a group (R33, R114, R139). -/
def Obligations.EventValidExactlyAfterEmittingSymbol : Prop :=
  ∀ s t : State, step s = .next t →
    (t.evValid = true ↔ ∃ (sym : Symbol) (rest : List PinSample),
      s.pins = { rst := false, symValid := true, sym := sym } :: rest ∧
      (sym = 0b0010#4 ∨ (8 ≤ sym.toNat ∧ s.ncnt = 2)))

/-- The output registers affect no later step: two machines that differ only in them take the same step (R34, R20). -/
def Obligations.OutputsAffectNoLaterStep : Prop :=
  ∀ (s : State) (o : Outputs), step { s with toOutputs := o } = step s

/-! ### What may write a register -/

/-- `starting` is set only by reset, symbol 1 and symbol 2, and cleared only by a completed group decoded while it was
set (R21, R29). -/
def Obligations.StartingWrittenOnlyAsStated : Prop :=
  ∀ s t : State, step s = .next t →
    (s.starting = false → t.starting = true →
      s.sampledPins.rst = true ∨
        (s.sampledPins.symValid = true ∧ (s.sampledPins.sym = 0b0001#4 ∨ s.sampledPins.sym = 0b0010#4))) ∧
    (s.starting = true → t.starting = false →
      s.sampledPins.rst = false ∧ s.sampledPins.symValid = true ∧ 8 ≤ s.sampledPins.sym.toNat ∧ s.ncnt = 2)

/-- The group in progress is written only by reset and by data nibbles: it survives every idle symbol, marker, reserved
symbol and pause (R22, R23, R32). -/
def Obligations.GroupWrittenOnlyByResetAndData : Prop :=
  ∀ s t : State, step s = .next t → s.sampledPins.rst = false →
    (s.sampledPins.symValid = true → s.sampledPins.sym.toNat < 8) → t.acc = s.acc ∧ t.ncnt = s.ncnt

/-! ### Invariants -/

/-- R24 and more: every edge, from every state that meets the invariant, keeps it. The accumulator holds only the bits of
the nibbles counted (R24); the outputs hold the encoding of an event or of none, `ev_kind = 3` never (R34, R68); and an
event on the outputs fits the state its symbol left (R82, R91 to R93). -/
def Obligations.StepKeepsTheInvariant : Prop :=
  ∀ s t : State, s.Inv → step s = .next t → t.Inv

/-- The invariant holds after reset. -/
def Obligations.ResetMeetsTheInvariant : Prop := State.reset.Inv

/-- Whatever state a step starts from, the outputs after it are legal and fit the state it left: these two parts of the
invariant need no premise (R34, R68, R82, R91 to R93). -/
def Obligations.OutputsLegalAfterAnyStep : Prop :=
  ∀ s t : State, step s = .next t → t.toOutputs.Legal ∧ EventFits t.toOutputs.event? t.toDecoder

/-! ### The symbol level -/

/-- R73, R139: an edge that consumes a symbol applies `Step` to the three state registers and loads the encoding of its
event, or of no event, into the output registers. -/
def Obligations.ExecIsSymbolLevelStep : Prop :=
  ∀ (sym : Symbol) (s : State), exec (decodeSymbol sym) s =
    .next { s with toDecoder := (s.toDecoder.step sym).1,
                   toOutputs := Outputs.ofEvent (s.toDecoder.step sym).2 }

/-- R74, R48: the run of a stream in two parts is the run of the first part and then of the second from where it ended;
the events of earlier symbols come before the events of later ones. -/
def Obligations.RunOfTwoPartsIsInOrder : Prop :=
  ∀ (d : Decoder) (xs ys : List Symbol),
    d.run (xs ++ ys) = (((d.run xs).1.run ys).1, (d.run xs).2 ++ ((d.run xs).1.run ys).2)

/-- Each symbol emits at most one event, and the events of a run are as many as its stop markers and its completed
groups together: no event is dropped or duplicated (R48, R114). -/
def Obligations.EventsCountStopsAndGroups : Prop :=
  (∀ (d : Decoder) (xs : List Symbol), (d.run xs).2.length ≤ xs.length) ∧
  (∀ (d : Decoder) (xs : List Symbol),
    (d.run xs).2.length = xs.count 0b0010#4 + (d.ncnt.val + xs.countP isDataNibble) / 3)

/-- Group boundaries are told only by counting data nibbles, modulo 3: no other symbol advances or resets the position,
so two streams leave the decoder at the same position only when their numbers of data nibbles differ by a multiple of 3
(R45, R72, R135). -/
def Obligations.PositionCountsDataNibbles : Prop :=
  (∀ (d : Decoder) (xs : List Symbol), (d.run xs).1.ncnt.val = (d.ncnt.val + xs.countP isDataNibble) % 3) ∧
  (∀ (d : Decoder) (xs ys : List Symbol), (d.run xs).1.ncnt = (d.run ys).1.ncnt ↔
    xs.countP isDataNibble % 3 = ys.countP isDataNibble % 3)

/-- Idle and reserved symbols leave no trace: taking all of them out of a stream changes neither its events nor its end
state (R80, R100, R101, R138). -/
def Obligations.DroppedSymbolsLeaveNoTrace : Prop :=
  ∀ (d : Decoder) (xs : List Symbol),
    d.run (xs.filter (fun sym => !(decide (sym.toNat = 0) || decide (3 ≤ sym.toNat ∧ sym.toNat ≤ 7)))) = d.run xs

/-- Markers, idle and reserved symbols between the nibbles of a group do not discard it and do not count toward it: the
three nibbles make the group, whatever stands between them; each stop marker still emits its Stop; and the group is a
Start exactly when `starting` was set before it or a marker stood inside it (R32, R45, R71, R91, R134). -/
def Obligations.MarkersInsideGroupKeepIt : Prop :=
  ∀ (d : Decoder) (d0 d1 d2 : DataBits) (c1 c2 : List Symbol), d.ncnt = 0 →
    (∀ sym ∈ c1 ++ c2, sym.toNat < 8) →
      d.run (dataNibble d0 :: c1 ++ dataNibble d1 :: c2 ++ [dataNibble d2]) =
        ({ starting := false, acc := 0, ncnt := 0 },
          List.replicate ((c1 ++ c2).count 0b0010#4) .stop ++
          [if d.starting = true ∨ 0b0001#4 ∈ c1 ++ c2 ∨ 0b0010#4 ∈ c1 ++ c2 then
              .start (BitVec.ofNat 7 (16 * d0.toNat + 2 * d1.toNat + d2.toNat / 4))
                (if d2.toNat / 2 % 2 = 1 then .read else .write) (decide (d2.toNat % 2 = 0))
            else .byte (BitVec.ofNat 8 (32 * d0.toNat + 4 * d1.toNat + d2.toNat / 2)) (decide (d2.toNat % 2 = 0))])

/-- The three nibbles of R69 give back the byte and the acknowledged flag they were made from, at any group boundary: as
the address and direction of a Start while `starting` is set, as the value of a Byte otherwise, even when a stream of
them begins right after reset (R69, R76, R131). -/
def Obligations.PresentedByteComesBack : Prop :=
  (∀ (d : Decoder) (a : Addr) (direction : Direction) (acknowledged : Bool), d.ncnt = 0 → d.starting = true →
    d.run (groupSymbols (addressByte a direction) acknowledged) =
      ({ starting := false, acc := 0, ncnt := 0 }, [.start a direction acknowledged])) ∧
  (∀ (d : Decoder) (bs : List (Byte × Bool)), d.ncnt = 0 → d.acc = 0 → d.starting = false →
    d.run (bs.flatMap (fun b => groupSymbols b.1 b.2)) = (d, bs.map (fun b => .byte b.1 b.2)))

/-- The acknowledge bit changes nothing but the event's flag: from a group boundary, a byte presented acknowledged or
not, and then any stream, end in the same state and give the same events, but for the flag of the first: its kind,
address, direction and value are the same, and so is every later event (R92, R111). -/
def Obligations.AcknowledgeDoesNotSteer : Prop :=
  ∀ (d : Decoder) (b : Byte) (xs : List Symbol), d.ncnt = 0 →
    ∃ (last : Decoder) (later : List Event), ∀ acknowledged : Bool,
      d.run (groupSymbols b acknowledged ++ xs) =
        (last, (if d.starting then .start (addressField b) (directionField b) acknowledged
          else .byte b acknowledged) :: later)

/-- In the events of a run from reset a Byte is never the first and never follows a Stop: before every Byte stands the
Start or Byte of the same transfer. So the first completed group is a Start even with no start marker before it, and so
is the first group after every Stop (R82, R92, R93, R131). -/
def Obligations.ByteOnlyAfterStartOrByte : Prop :=
  ∀ (xs : List Symbol) (before after : List Event) (value : Byte) (acknowledged : Bool),
    (Decoder.reset.run xs).2 = before ++ .byte value acknowledged :: after →
      ∃ (earlier : List Event) (e : Event), before = earlier ++ [e] ∧ e ≠ .stop

/-! ### The document's machine -/

/-- R95: from every state that meets R24, the registers `acc` and `ncnt` give the same events as the document's unbounded
`bits` and `nbits` for every symbol stream, and after it `bits = acc` and `nbits = 3 * ncnt`. -/
def Obligations.RegistersMatchTheDocument : Prop :=
  ∀ (d : Decoder) (xs : List Symbol), d.Inv →
    Document.run { starting := d.starting, bits := d.acc.toNat, nbits := 3 * d.ncnt.val } xs =
      ({ starting := (d.run xs).1.starting, bits := (d.run xs).1.acc.toNat, nbits := 3 * (d.run xs).1.ncnt.val },
        (d.run xs).2)

/-- The initial value of the document's `bits`, which the document does not give, changes no event of any run (I6,
decision D10). -/
def Obligations.InitialBitsChangeNoEvent : Prop :=
  ∀ (n : Nat) (xs : List Symbol),
    ((Document.initial n).run xs).2 = ((Document.initial 0).run xs).2

/-! ### Whole runs on the clock -/

/-- R139, R41, R48: from every state, over all the samples presented, when none is a reset, the clocked machine ends in
the state of the symbol-level run of the accepted symbols, and the events on its outputs are exactly that run's, in
order: none lost, none duplicated, none delayed past its cycle. -/
def Obligations.ClockedRunIsSymbolLevelRun : Prop :=
  ∀ s : State, (∀ p ∈ s.pins, p.rst = false) →
    (∃ t : State, Host.Core.run Sys2Proof.core s.pins.length s = .next t ∧ t.pins = [] ∧
      t.toDecoder = (s.toDecoder.run (acceptedSymbols s.pins)).1) ∧
    eventsSeen s.pins.length s = (s.toDecoder.run (acceptedSymbols s.pins)).2

/-- R140, R119: two machines in the same decoder state whose inputs differ only in pauses between symbols (and in what
`sym` carries then, and in what is on their outputs at first) give the same events and end in the same decoder state. -/
def Obligations.PausesChangeNoEvent : Prop :=
  ∀ s s' : State, s.toDecoder = s'.toDecoder → acceptedSymbols s.pins = acceptedSymbols s'.pins →
    (∀ p ∈ s.pins, p.rst = false) → (∀ p ∈ s'.pins, p.rst = false) →
      eventsSeen s.pins.length s = eventsSeen s'.pins.length s' ∧
      ∃ t t' : State, Host.Core.run Sys2Proof.core s.pins.length s = .next t ∧
        Host.Core.run Sys2Proof.core s'.pins.length s' = .next t' ∧ t.toDecoder = t'.toDecoder

/-- R131, R133: after a reset, nothing of what went before matters: from every state, whatever was presented before it,
the symbols after the last reset are decoded from `(starting=1, acc=0, ncnt=0)`, and the events before it are those of
the samples before it. -/
def Obligations.ResetForgetsThePast : Prop :=
  ∀ (s : State) (before after : List PinSample) (symValid : Bool) (sym : Symbol),
    s.pins = before ++ { rst := true, symValid := symValid, sym := sym } :: after →
    (∀ p ∈ after, p.rst = false) →
      (∃ t : State, Host.Core.run Sys2Proof.core s.pins.length s = .next t ∧
        t.toDecoder = (Decoder.run { starting := true, acc := 0, ncnt := 0 } (acceptedSymbols after)).1) ∧
      eventsSeen s.pins.length s = eventsSeen before.length s ++
        (Decoder.run { starting := true, acc := 0, ncnt := 0 } (acceptedSymbols after)).2

/-- A slow sink only loses events, and the decoder does not wait for it (R118, R137, R139). After every edge the outputs
hold the event that `Decoder.step` gives for the symbol accepted at that edge, and none if no symbol was accepted: so an
event is gone after the next edge, unless that edge emits one. A sink that reads in cycle `i`, whatever it read or missed
before, takes there exactly the event of the symbol accepted at edge `i`, decoded from the state that the edges before it
left; a sink that does not read there takes nothing and gets that event in no later cycle. What a sink takes is therefore
a sublist of the events on the outputs, and all of them when it reads in every cycle. How a sink reads is log 12. -/
def Obligations.SlowSinkOnlyLosesEvents : Prop :=
  (∀ s t : State, step s = .next t →
    t.toOutputs.event? =
      if s.sampledPins.rst = false ∧ s.sampledPins.symValid = true then (s.toDecoder.step s.sampledPins.sym).2
      else none) ∧
  (∀ (s u : State) (reads : List Bool) (now : Bool) (before after : List PinSample) (p : PinSample),
    s.pins = before ++ p :: after → before.length = reads.length →
    Host.Core.run Sys2Proof.core before.length s = .next u →
      eventsTaken (reads ++ [now]) s = eventsTaken reads s ++
        (if now = true ∧ p.rst = false ∧ p.symValid = true then (u.toDecoder.step p.sym).2.toList else [])) ∧
  (∀ (s : State) (reads : List Bool), List.Sublist (eventsTaken reads s) (eventsSeen reads.length s)) ∧
  (∀ (s : State) (k : Nat), eventsTaken (List.replicate k true) s = eventsSeen k s)

/-! ### The mnemonic syntax -/

/-- One mnemonic stands for one symbol; mnemonics are parted by spaces, commas or line breaks, any number of them, and by
comments from `;` to the end of the line (R75). A text that writes a list of instructions in mnemonics assembles to their
symbols: it may begin with separators, a last mnemonic may end it with nothing after it, and a comment may run to its end.
That a line feed and a carriage return are the line breaks is the model's choice (log 11). -/
def Obligations.MnemonicsAssembleToTheirSymbols : Prop :=
  ∀ (lead : List Char) (text : List (Instr × List Char)) (last : Option Instr) (ending : List Char),
    (lead = [] ∨ Separation lead) → (∀ w ∈ text, Separation w.2) →
    (ending = [] ∨ ∃ body, ending = ';' :: body ∧ ∀ c ∈ body, c ≠ '\n' ∧ c ≠ '\r') →
      assemble (lead ++ text.flatMap (fun w => mnemonic w.1 ++ w.2) ++ (last.map mnemonic).getD [] ++ ending) =
        .ok (text.map (fun w => encodeSymbol w.1) ++ (last.map encodeSymbol).toList)

/-- R76: the expansions. `ADDR` expands as `BYTE` of the address with its direction bit below it, `START` is `S` followed
by `ADDR`, `STOP` is `P`, and `RAW` is the two nibbles of its byte, the high one first. -/
def Obligations.PseudoInstructionsExpand : Prop :=
  (∀ (a : Nat) (direction : Direction) (k : Bool), (Statement.addr a direction k).wellFormed = true →
    (Statement.addr a direction k).expand =
      (Statement.byte (2 * a + (if direction = .read then 1 else 0)) k).expand ∧
    (Statement.start a direction k).expand = 0b0001#4 :: (Statement.addr a direction k).expand) ∧
  (∀ (v : Nat) (k : Bool), (Statement.byte v k).wellFormed = true →
    (Statement.byte v k).expand = groupSymbols (BitVec.ofNat 8 v) k) ∧
  (∀ xx : Nat, (Statement.raw xx).wellFormed = true →
    (Statement.raw xx).expand = [BitVec.ofNat 4 (xx / 16), BitVec.ofNat 4 (xx % 16)]) ∧
  Statement.stop.expand = [0b0010#4]
end

