-- ==== Sys2Proof/Config.lean ====
section
/-! DEFINITION. The fixed parameters of the decoder (00_scope.md rule R8). The spec leaves no parameter open
(92_eei_decisions.md), so there is no free value here: every constant is the spec's. -/

namespace Sys2Proof.Config

/-- R8 SYMBOL_WIDTH. -/
abbrev symbolWidth : Nat := 4
/-- R8 SYMBOLS_PER_RAW_BYTE (R42: high nibble first). -/
abbrev symbolsPerRawByte : Nat := 2
/-- R8 DATA_BITS_PER_SYMBOL. -/
abbrev dataBitsPerSymbol : Nat := 3
/-- R8 SYMBOLS_PER_GROUP. -/
abbrev symbolsPerGroup : Nat := 3
/-- R8 GROUP_WIDTH. -/
abbrev groupWidth : Nat := 9
/-- R8 BYTE_WIDTH. -/
abbrev byteWidth : Nat := 8
/-- R8 ADDRESS_WIDTH. -/
abbrev addressWidth : Nat := 7
/-- R8 ACC_WIDTH, decision D9. -/
abbrev accWidth : Nat := 6
/-- R8 NCNT_VALUES (0, 1, 2), decisions D9 and D11. -/
abbrev ncntValues : Nat := 3
/-- R8 EVENT_KINDS. -/
abbrev eventKinds : Nat := 3
/-- R8 EVENTS_PER_SYMBOL: at most this many (R114). -/
abbrev eventsPerSymbol : Nat := 1
/-- R8 EVENT_LATENCY in clock cycles, decision D4. -/
abbrev eventLatency : Nat := 1
/-- R8 SYMBOLS_PER_CYCLE: at most this many, decision D3. -/
abbrev symbolsPerCycle : Nat := 1

end Sys2Proof.Config
end

