-- ==== Sys2Proof/Laws/Assembler.lean ====
section
/-! SUPPORT. What the readers of text do, once for each. -/

namespace Sys2Proof.Machine

/-- The line breaks. -/
theorem isLineBreak_iff (c : Char) : isLineBreak c = true ↔ c = '\n' ∨ c = '\r' := by simp [isLineBreak]

/-- The separators. -/
theorem isSeparator_iff (c : Char) : isSeparator c = true ↔ c = ' ' ∨ c = ',' ∨ c = '\n' ∨ c = '\r' := by
  simp [isSeparator, isLineBreak, or_assoc]

/-- A separator ends the word read so far. -/
theorem tokens_separator {c : Char} (h : isSeparator c = true) (current : Token) (cs : List Char) :
    tokens false current (c :: cs) = flushToken current ++ tokens false [] cs := by
  have hc : (c == ';') = false := by
    rcases (isSeparator_iff c).1 h with rfl | rfl | rfl | rfl <;> decide
  simp [tokens, hc, h]

/-- A mnemonic at the head of the words is one statement. -/
theorem statements_of_instr {t : Token} {i : Instr} (h : instr? t = some i) (rest : List Token) :
    statements (t :: rest) = consStatement (some (.symbol i)) (statements rest) := by
  rw [statements.eq_def]
  simp only [h]

end Sys2Proof.Machine
end

