-- ==== Sys2Proof/Laws/Config.lean ====
section
/-! SUPPORT. The types of the model have the widths of 00_scope.md rule R8. -/

namespace Sys2Proof.Config

theorem symbol_width : Symbol = BitVec symbolWidth := rfl
theorem dataBits_width : DataBits = BitVec dataBitsPerSymbol := rfl
theorem acc_width : Acc = BitVec accWidth := rfl
theorem group_width : Group = BitVec groupWidth := rfl
theorem byte_width : Byte = BitVec byteWidth := rfl
theorem addr_width : Addr = BitVec addressWidth := rfl
theorem ncnt_values (s : Machine.Decoder) : s.ncnt.val < ncntValues := s.ncnt.isLt
theorem group_is_whole_symbols : groupWidth = symbolsPerGroup * dataBitsPerSymbol := rfl
theorem raw_byte_is_whole_symbols (r : Byte) : (Machine.symbolsOfByte r).length = symbolsPerRawByte := rfl

end Sys2Proof.Config
end

