-- ==== Sys2Proof/Laws/State.lean ====
section
/-! SUPPORT. One lemma for each field and each update of the state, so that no later proof unfolds a record update. -/

namespace Sys2Proof.Machine

/-! ### Updates of the symbol-level state -/

@[simp] theorem Decoder.setStarting_starting (s : Decoder) : s.setStarting.starting = true := rfl
@[simp] theorem Decoder.setStarting_acc (s : Decoder) : s.setStarting.acc = s.acc := rfl
@[simp] theorem Decoder.setStarting_ncnt (s : Decoder) : s.setStarting.ncnt = s.ncnt := rfl
@[simp] theorem Decoder.clearStarting_starting (s : Decoder) : s.clearStarting.starting = false := rfl
@[simp] theorem Decoder.clearStarting_acc (s : Decoder) : s.clearStarting.acc = s.acc := rfl
@[simp] theorem Decoder.clearStarting_ncnt (s : Decoder) : s.clearStarting.ncnt = s.ncnt := rfl
@[simp] theorem Decoder.appendNibble_starting (s : Decoder) (d : DataBits) :
    (s.appendNibble d).starting = s.starting := rfl
@[simp] theorem Decoder.appendNibble_acc (s : Decoder) (d : DataBits) :
    (s.appendNibble d).acc = (s.acc <<< 3) ||| d.setWidth 6 := rfl
@[simp] theorem Decoder.appendNibble_ncnt (s : Decoder) (d : DataBits) :
    (s.appendNibble d).ncnt = s.ncnt + 1 := rfl
@[simp] theorem Decoder.emptyGroup_starting (s : Decoder) : s.emptyGroup.starting = s.starting := rfl
@[simp] theorem Decoder.emptyGroup_acc (s : Decoder) : s.emptyGroup.acc = 0 := rfl
@[simp] theorem Decoder.emptyGroup_ncnt (s : Decoder) : s.emptyGroup.ncnt = 0 := rfl
@[simp] theorem Decoder.reset_starting : Decoder.reset.starting = true := rfl
@[simp] theorem Decoder.reset_acc : Decoder.reset.acc = 0 := rfl
@[simp] theorem Decoder.reset_ncnt : Decoder.reset.ncnt = 0 := rfl

/-! ### The output registers -/

@[simp] theorem Outputs.quiet_evValid : Outputs.quiet.evValid = false := rfl
@[simp] theorem Outputs.quiet_evKind : Outputs.quiet.evKind = 0 := rfl
@[simp] theorem Outputs.quiet_evData : Outputs.quiet.evData = 0 := rfl
@[simp] theorem Outputs.quiet_evAck : Outputs.quiet.evAck = false := rfl
@[simp] theorem Outputs.event?_quiet : Outputs.quiet.event? = none := rfl
@[simp] theorem Outputs.ofEvent_none : Outputs.ofEvent none = Outputs.quiet := rfl
@[simp] theorem Outputs.ofEvent_evValid (e : Option Event) : (Outputs.ofEvent e).evValid = e.isSome := by
  rcases e with _ | _ | _ | _ <;> rfl

/-! ### Updates of the machine -/

@[simp] theorem State.passEdge_toDecoder (s : State) : s.passEdge.toDecoder = s.toDecoder := rfl
@[simp] theorem State.passEdge_toOutputs (s : State) : s.passEdge.toOutputs = s.toOutputs := rfl
@[simp] theorem State.passEdge_pins (s : State) : s.passEdge.pins = s.pins.tail := rfl
@[simp] theorem State.resetRegisters_toDecoder (s : State) : s.resetRegisters.toDecoder = Decoder.reset := rfl
@[simp] theorem State.resetRegisters_toOutputs (s : State) : s.resetRegisters.toOutputs = Outputs.quiet := rfl
@[simp] theorem State.resetRegisters_pins (s : State) : s.resetRegisters.pins = s.pins := rfl
@[simp] theorem State.hold_toDecoder (s : State) : s.hold.toDecoder = s.toDecoder := rfl
@[simp] theorem State.hold_toOutputs (s : State) : s.hold.toOutputs = Outputs.quiet := rfl
@[simp] theorem State.hold_pins (s : State) : s.hold.pins = s.pins := rfl
@[simp] theorem State.consume_toDecoder (f : Decoder → Decoder × Option Event) (s : State) :
    (s.consume f).toDecoder = (f s.toDecoder).1 := rfl
@[simp] theorem State.consume_toOutputs (f : Decoder → Decoder × Option Event) (s : State) :
    (s.consume f).toOutputs = Outputs.ofEvent (f s.toDecoder).2 := rfl
@[simp] theorem State.consume_pins (f : Decoder → Decoder × Option Event) (s : State) :
    (s.consume f).pins = s.pins := rfl
@[simp] theorem State.reset_toDecoder : State.reset.toDecoder = Decoder.reset := rfl
@[simp] theorem State.reset_toOutputs : State.reset.toOutputs = Outputs.quiet := rfl
@[simp] theorem State.reset_pins : State.reset.pins = [] := rfl

/-- Two states are equal when their three parts are. -/
theorem State.eq_of_parts {s t : State} (hd : s.toDecoder = t.toDecoder) (ho : s.toOutputs = t.toOutputs)
    (hp : s.pins = t.pins) : s = t := by
  cases s; cases t; simp_all

/-! ### The symbol-level effects -/

@[simp] theorem Decoder.idle_fst (s : Decoder) : s.idle.1 = s := rfl
@[simp] theorem Decoder.idle_snd (s : Decoder) : s.idle.2 = none := rfl
@[simp] theorem Decoder.startMark_fst (s : Decoder) : s.startMark.1 = s.setStarting := rfl
@[simp] theorem Decoder.startMark_snd (s : Decoder) : s.startMark.2 = none := rfl
@[simp] theorem Decoder.stopMark_fst (s : Decoder) : s.stopMark.1 = s.setStarting := rfl
@[simp] theorem Decoder.stopMark_snd (s : Decoder) : s.stopMark.2 = some .stop := rfl
@[simp] theorem Decoder.reserved_fst (s : Decoder) : s.reserved.1 = s := rfl
@[simp] theorem Decoder.reserved_snd (s : Decoder) : s.reserved.2 = none := rfl

end Sys2Proof.Machine
end

