-- ==== Sys2Proof/Laws/Ops.lean ====
section
/-! SUPPORT. For each shared operation, once, what it can do; later proofs cite these instead of unfolding. -/

namespace Sys2Proof.Machine

/-! ### The group in progress -/

/-- While fewer than two nibbles are held, a data nibble appends and emits nothing. -/
theorem Decoder.data_of_lt {s : Decoder} (h : s.ncnt < 2) (d : DataBits) :
    Decoder.data d s = (s.appendNibble d, none) := by
  simp [Decoder.data, h]

/-- With two nibbles held, a data nibble completes the group. -/
theorem Decoder.data_of_eq {s : Decoder} (h : s.ncnt = 2) (d : DataBits) :
    Decoder.data d s = s.complete d := by
  simp [Decoder.data, h]

/-- What a data nibble does, in its two cases. -/
theorem Decoder.data_cases (d : DataBits) (s : Decoder) :
    (s.ncnt < 2 ∧ Decoder.data d s = (s.appendNibble d, none)) ∨
      (s.ncnt = 2 ∧ Decoder.data d s = s.complete d) := by
  by_cases h : s.ncnt < 2
  · exact .inl ⟨h, Decoder.data_of_lt h d⟩
  · have h2 : s.ncnt = 2 := by omega
    exact .inr ⟨h2, Decoder.data_of_eq h2 d⟩

/-- Whichever event it emits, a completed group leaves `starting`, `acc` and `ncnt` at 0. -/
theorem Decoder.complete_fst (s : Decoder) (d : DataBits) :
    (s.complete d).1 = { starting := false, acc := 0, ncnt := 0 } := by
  unfold Decoder.complete
  cases h : s.starting <;> simp [Decoder.startGroup, Decoder.byteGroup, Decoder.emptyGroup, Decoder.clearStarting, h]

/-- The event of a completed group. -/
theorem Decoder.complete_snd (s : Decoder) (d : DataBits) :
    (s.complete d).2 = some (if s.starting then
      .start (addressField (groupByte (groupValue s.acc d))) (directionField (groupByte (groupValue s.acc d)))
        (groupAck (groupValue s.acc d))
      else .byte (groupByte (groupValue s.acc d)) (groupAck (groupValue s.acc d))) := by
  unfold Decoder.complete
  cases h : s.starting <;> simp [Decoder.startGroup, Decoder.byteGroup]

/-! ### Addresses -/

/-- The two fields of an address byte determine it. -/
theorem addressByte_fields (b8 : Byte) : addressByte (addressField b8) (directionField b8) = b8 := by
  revert b8; decide

/-- The address of an address byte. -/
@[simp] theorem addressField_addressByte (a : Addr) (dir : Direction) : addressField (addressByte a dir) = a := by
  revert a; cases dir <;> decide

/-- The direction of an address byte. -/
@[simp] theorem directionField_addressByte (a : Addr) (dir : Direction) :
    directionField (addressByte a dir) = dir := by
  revert a; cases dir <;> decide

/-! ### The input ports -/

@[simp] theorem State.sampledPins_cons (s : State) (p : PinSample) (ps : List PinSample) :
    { s with pins := p :: ps : State }.sampledPins = p := rfl

@[simp] theorem State.passEdge_cons (s : State) (p : PinSample) (ps : List PinSample) :
    { s with pins := p :: ps : State }.passEdge = { s with pins := ps } := rfl

/-- With no sample left, nothing is presented. -/
theorem State.sampledPins_of_nil {s : State} (h : s.pins = []) : s.sampledPins = PinSample.nothing := by
  simp [State.sampledPins, h]

/-- With a sample left, it is the one sampled. -/
theorem State.sampledPins_of_cons {s : State} {p : PinSample} {ps : List PinSample} (h : s.pins = p :: ps) :
    s.sampledPins = p := by
  simp [State.sampledPins, h]

/-! ### Executing a symbol -/

/-- The symbol-level effect of an instruction. -/
def effectOf : Instr → Decoder → Decoder × Option Event
  | .idle => Decoder.idle
  | .s => Decoder.startMark
  | .p => Decoder.stopMark
  | .rsv3 => Decoder.reserved
  | .rsv4 => Decoder.reserved
  | .rsv5 => Decoder.reserved
  | .rsv6 => Decoder.reserved
  | .rsv7 => Decoder.reserved
  | .dk k => Decoder.data k

/-- Executing an instruction applies its symbol-level effect, through the one clocked wrapper. -/
theorem exec_eq_consume (i : Instr) (s : State) : exec i s = .next (s.consume (effectOf i)) := by
  cases i <;> rfl

/-! ### One edge -/

/-- The three things an edge can do, in their priority. -/
theorem step_of_rst {s : State} (h : s.sampledPins.rst = true) : step s = .next s.passEdge.resetRegisters := by
  simp [step, clockEdge, h]

/-- An edge with a symbol and no reset executes the decoded symbol. -/
theorem step_of_symbol {s : State} (hr : s.sampledPins.rst = false) (hv : s.sampledPins.symValid = true) :
    step s = exec (decodeSymbol s.sampledPins.sym) s.passEdge := by
  simp [step, clockEdge, hr, hv]

/-- An edge with neither holds. -/
theorem step_of_pause {s : State} (hr : s.sampledPins.rst = false) (hv : s.sampledPins.symValid = false) :
    step s = .next s.passEdge.hold := by
  simp [step, clockEdge, hr, hv]

/-- Everything a step can do, its guards included. -/
theorem step_cases {s t : State} (h : step s = .next t) :
    (s.sampledPins.rst = true ∧ t = s.passEdge.resetRegisters) ∨
      (s.sampledPins.rst = false ∧ s.sampledPins.symValid = true ∧
        t = s.passEdge.consume (effectOf (decodeSymbol s.sampledPins.sym))) ∨
      (s.sampledPins.rst = false ∧ s.sampledPins.symValid = false ∧ t = s.passEdge.hold) := by
  cases hr : s.sampledPins.rst with
  | true => rw [step_of_rst hr] at h; cases h; exact .inl ⟨rfl, rfl⟩
  | false =>
    cases hv : s.sampledPins.symValid with
    | true =>
      rw [step_of_symbol hr hv, exec_eq_consume] at h
      cases h; exact .inr (.inl ⟨rfl, rfl, rfl⟩)
    | false => rw [step_of_pause hr hv] at h; cases h; exact .inr (.inr ⟨rfl, rfl, rfl⟩)

/-! ### Runs and what a sink reads -/

@[simp] theorem Decoder.run_nil (s : Decoder) : s.run [] = (s, []) := rfl

theorem Decoder.run_cons (s : Decoder) (sym : Symbol) (xs : List Symbol) :
    s.run (sym :: xs) = (((s.step sym).1.run xs).1, (s.step sym).2.toList ++ ((s.step sym).1.run xs).2) := rfl

@[simp] theorem acceptedSymbols_nil : acceptedSymbols [] = [] := rfl

/-- An accepted sample adds its symbol to the stream. -/
theorem acceptedSymbols_cons_of_accepts {p : PinSample} (h : p.accepts = true) (ps : List PinSample) :
    acceptedSymbols (p :: ps) = p.sym :: acceptedSymbols ps := by
  simp [acceptedSymbols, h]

/-- A sample that is not accepted adds nothing. -/
theorem acceptedSymbols_cons_of_not_accepts {p : PinSample} (h : p.accepts = false) (ps : List PinSample) :
    acceptedSymbols (p :: ps) = acceptedSymbols ps := by
  simp [acceptedSymbols, h]

@[simp] theorem eventsSeen_zero (s : State) : eventsSeen 0 s = [] := rfl

/-- One more cycle is read before the rest. -/
theorem eventsSeen_succ {s t : State} (h : step s = .next t) (k : Nat) :
    eventsSeen (k + 1) s = t.toOutputs.event?.toList ++ eventsSeen k t := by
  simp [eventsSeen, h]

end Sys2Proof.Machine
end

