-- ==== Sys2Proof/Laws/PerInstr.lean ====
section
/-! SUPPORT. Statements made for every instruction, one lemma for each constructor. -/

namespace Sys2Proof.Laws

/-- The encoder's symbol lies in the row of spec/opcode_table.json that the constructor stands for. -/
def TableRow.Statement (i : Instr) : Prop := (opcodeRow i).accepts (encodeSymbol i) = true

theorem TableRow.idle : TableRow.Statement .idle := rfl
theorem TableRow.s : TableRow.Statement .s := rfl
theorem TableRow.p : TableRow.Statement .p := rfl
theorem TableRow.rsv3 : TableRow.Statement .rsv3 := rfl
theorem TableRow.rsv4 : TableRow.Statement .rsv4 := rfl
theorem TableRow.rsv5 : TableRow.Statement .rsv5 := rfl
theorem TableRow.rsv6 : TableRow.Statement .rsv6 := rfl
theorem TableRow.rsv7 : TableRow.Statement .rsv7 := rfl
theorem TableRow.dk (k : DataBits) : TableRow.Statement (.dk k) := by
  unfold TableRow.Statement; revert k; decide

end Sys2Proof.Laws
end

