-- ==== Sys2Proof/Tests/Slice0.lean ====
section
/-! SUPPORT. Tests. Expected results are the spec's: the tables of 95_test_vectors.md, the examples of the rules, and hand
calculation from them. The last part holds the witnesses: for each statement with hypotheses, a concrete case that meets
them all. -/

namespace Sys2Proof.Tests

open Sys2Proof.Machine

/-! ### Helpers -/

/-- A state with these decoder registers, an old event on its outputs, and nothing presented. -/
def small (starting : Bool) (acc : Acc) (ncnt : Fin 3) : State :=
  { starting := starting, acc := acc, ncnt := ncnt, evValid := true, evKind := 1, evData := 0x5A, evAck := true, pins := [] }

/-- The state registers and the event on the outputs after an outcome that is a next state. -/
def seen : Host.Outcome State Fault Refusal → Option (Bool × Acc × Fin 3 × Option Event)
  | .next t => some (t.starting, t.acc, t.ncnt, t.toOutputs.event?)
  | .fault _ => none
  | .refused _ => none

/-- One edge that presents a symbol. -/
def edge (sym : Symbol) (s : State) : Option (Bool × Acc × Fin 3 × Option Event) :=
  seen (step { s with pins := [PinSample.ofSymbol sym] })

/-! ### Decoding: words written out from the spec's encodings (R63) -/

theorem test_decode_idle : decodeSymbol 0b0000#4 = .idle := by decide
theorem test_decode_s : decodeSymbol 0b0001#4 = .s := by decide
theorem test_decode_p : decodeSymbol 0b0010#4 = .p := by decide
theorem test_decode_rsv3 : decodeSymbol 0b0011#4 = .rsv3 := by decide
theorem test_decode_rsv4 : decodeSymbol 0b0100#4 = .rsv4 := by decide
theorem test_decode_rsv5 : decodeSymbol 0b0101#4 = .rsv5 := by decide
theorem test_decode_rsv6 : decodeSymbol 0b0110#4 = .rsv6 := by decide
theorem test_decode_rsv7 : decodeSymbol 0b0111#4 = .rsv7 := by decide
theorem test_decode_d0_is_no_idle : decodeSymbol 0b1000#4 = .dk 0b000#3 := by decide
theorem test_decode_d5 : decodeSymbol 0b1101#4 = .dk 0b101#3 := by decide
theorem test_decode_stream_end : decode [] = .error .noSymbol := rfl
theorem test_decode_table_word : decodeTableWord 8 0x0D = some (.dk 5) := by decide
theorem test_decode_table_no_word : decodeTableWord 0 0 = none := by decide

/-! ### Well-formedness: each check refuses an ill-formed term and takes the last legal one (R67, R76) -/

theorem test_illformed_byte : (Statement.byte 256 true).wellFormed = false := by decide
theorem test_illformed_addr : (Statement.addr 128 .read true).wellFormed = false := by decide
theorem test_illformed_start : (Statement.start 128 .write false).wellFormed = false := by decide
theorem test_illformed_raw : (Statement.raw 256).wellFormed = false := by decide
theorem test_wellformed_byte : (Statement.byte 255 true).wellFormed = true := by decide
theorem test_wellformed_addr : (Statement.addr 127 .read true).wellFormed = true := by decide
theorem test_wellformed_start : (Statement.start 127 .write false).wellFormed = true := by decide
theorem test_wellformed_raw : (Statement.raw 255).wellFormed = true := by decide
theorem test_every_instr_wellformed (k : DataBits) : (Instr.dk k).wellFormed = true := by revert k; decide

/-! ### Markers (95_test_vectors.md 2.1) -/

theorem test_idle_mid_group : edge 0x0 (small false 0b000101 1) = some (false, 0b000101, 1, none) := by decide
theorem test_s_sets_starting : edge 0x1 (small false 0b000000 0) = some (true, 0b000000, 0, none) := by decide
theorem test_s_mid_group : edge 0x1 (small false 0b000101 1) = some (true, 0b000101, 1, none) := by decide
theorem test_p_when_starting : edge 0x2 (small true 0b000000 0) = some (true, 0b000000, 0, some .stop) := by decide
theorem test_p_mid_group : edge 0x2 (small false 0b000101 1) = some (true, 0b000101, 1, some .stop) := by decide

/-! ### Reserved symbols (95_test_vectors.md 2.3) -/

theorem test_rsv3 : edge 0x3 (small false 0b000011 1) = some (false, 0b000011, 1, none) := by decide
theorem test_rsv4 : edge 0x4 (small false 0b000011 1) = some (false, 0b000011, 1, none) := by decide
theorem test_rsv5 : edge 0x5 (small false 0b000011 1) = some (false, 0b000011, 1, none) := by decide
theorem test_rsv6 : edge 0x6 (small false 0b000011 1) = some (false, 0b000011, 1, none) := by decide
theorem test_rsv7 : edge 0x7 (small true 0b110110 2) = some (true, 0b110110, 2, none) := by decide

/-! ### Data nibbles (95_test_vectors.md 2.2) -/

theorem test_dk_accumulates :
    edge 0x8 (small true 0b000000 0) = some (true, 0b000000, 1, none) ∧
    edge 0xF (small true 0b000000 0) = some (true, 0b000111, 1, none) ∧
    edge 0x8 (small false 0b000111 1) = some (false, 0b111000, 2, none) ∧
    edge 0xF (small false 0b000111 1) = some (false, 0b111111, 2, none) :=
  ⟨by decide, by decide, by decide, by decide⟩

theorem test_dk_completes :
    edge 0x8 (small true 0b101000 2) = some (false, 0, 0, some (.start 0x50 .write true)) ∧
    edge 0xF (small false 0b101010 2) = some (false, 0, 0, some (.byte 0xAB false)) ∧
    edge 0x9 (small false 0b000000 2) = some (false, 0, 0, some (.byte 0x00 false)) ∧
    edge 0xF (small true 0b111111 2) = some (false, 0, 0, some (.start 0x7F .read false)) ∧
    edge 0xD (small true 0b111111 2) = some (false, 0, 0, some (.start 0x7F .write false)) ∧
    edge 0xE (small true 0b111111 2) = some (false, 0, 0, some (.start 0x7F .read true)) ∧
    edge 0xC (small true 0b010000 2) = some (false, 0, 0, some (.start 0x21 .write true)) ∧
    edge 0x8 (small false 0b100000 2) = some (false, 0, 0, some (.byte 0x80 true)) :=
  ⟨by decide, by decide, by decide, by decide, by decide, by decide, by decide, by decide⟩

/-! ### The clock (95_test_vectors.md 2.5, edges 3, 5, 9, 11) -/

/-- The output registers after one edge with these pins. -/
def outputsAfter (p : PinSample) (s : State) : Option Outputs :=
  match step { s with pins := [p] } with
  | .next t => some t.toOutputs
  | .fault _ => none
  | .refused _ => none

theorem test_edge3_pause_ignores_sym :
    seen (step { small true 0b000101 1 with pins := [{ rst := false, symValid := false, sym := 0xF }] }) =
      some (true, 0b000101, 1, none) := by decide
theorem test_edge5_start_on_ports :
    outputsAfter (.ofSymbol 0x8) (small true 0b101000 2) =
      some { evValid := true, evKind := 0, evData := 0xA0, evAck := true } := by decide
theorem test_edge8_byte_on_ports :
    outputsAfter (.ofSymbol 0xF) (small false 0b101010 2) =
      some { evValid := true, evKind := 1, evData := 0xAB, evAck := false } := by decide
theorem test_edge9_stop_kind : (outputsAfter (.ofSymbol 0x2) (small false 0 0)).map Outputs.evKind = some 2 := by decide
theorem test_edge11_reset_wins :
    seen (step { small true 0b000101 1 with pins := [{ rst := true, symValid := true, sym := 0x8 }] }) =
      some (true, 0b000000, 0, none) := by decide
theorem test_edge12_nothing_presented : seen (step State.reset) = some (true, 0b000000, 0, none) := by decide

/-! ### The symbol source (95_test_vectors.md 2.4; R42) -/

theorem test_group_a0_ack : groupSymbols 0xA0 true = [0xD, 0x8, 0x8] := by decide
theorem test_group_ab_nak : groupSymbols 0xAB false = [0xD, 0xA, 0xF] := by decide
theorem test_group_80_nak : groupSymbols 0x80 false = [0xC, 0x8, 0x9] := by decide
theorem test_raw_high_nibble_first : symbolsOfByte 0x1D = [0x1, 0xD] := by decide

/-! ### The mnemonic syntax (R13, R75, R76; the lines of 95_test_vectors.md P1, P3 and P5) -/

/-- The symbols of a text, if it assembles. -/
def symbolsOfText (text : String) : Option (List Symbol) :=
  match assemble text.toList with
  | .ok xs => some xs
  | .error _ => none

theorem test_assemble_start :
    symbolsOfText "START 0x50, W, ACK     ; S D5 D0 D0" = some [0x1, 0xD, 0x8, 0x8] := by decide
theorem test_assemble_byte : symbolsOfText "BYTE  0xAB, NAK\nSTOP" = some [0xD, 0xA, 0xF, 0x2] := by decide
theorem test_assemble_addr : symbolsOfText "ADDR 0x3C, R, NAK" = some [0xB, 0xE, 0xB] := by decide
theorem test_assemble_raw : symbolsOfText "RAW D8, RSV5" = some [0xD, 0x8, 0x5] := by decide
theorem test_assemble_refuses_unknown : assemble "D8".toList = .error .unknownMnemonic := by rfl
theorem test_assemble_refuses_range : assemble "BYTE 256, ACK".toList = .error .outOfRange := by rfl
/-- The last mnemonic ends the text; the comma of R76 may be a space (log 16). -/
theorem test_assemble_no_comma : symbolsOfText "BYTE 0xAB NAK;x\nP" = some [0xD, 0xA, 0xF, 0x2] := by decide
theorem test_hex_stream : hexStream? "1 D 8 8".toList = some [0x1, 0xD, 0x8, 0x8] := by decide
theorem test_raw_stream : rawStream? "1D 88".toList = some [0x1D, 0x88] := by decide

/-! ### Witnesses: the hypotheses of the statements can be met, at the boundaries of each clause -/

/-- DecodeAndEncodeAgree. -/
theorem witness_wellformed : (Instr.dk 7).wellFormed = true ∧ (Instr.idle).wellFormed = true := by decide
/-- PortEncodingLosesNothing, second clause. -/
theorem witness_same_ports :
    Outputs.ofEvent (some (.start 0x50 .write true)) = Outputs.ofEvent (some (.start 0x50 .write true)) := rfl
/-- GroupSymbolsAreABijection, third clause. -/
theorem witness_same_group : groupSymbols 0xFF false = groupSymbols 0xFF false := rfl
/-- StartMarkerSetsStarting, third clause. -/
theorem witness_already_starting : (Decoder.reset).starting = true := rfl
/-- StartMarkerSetsStarting and StopMarkerEmitsStop, last clause: three, two and one nibbles are missing. -/
theorem witness_group_filled :
    Decoder.reset.ncnt.val + [(1 : DataBits), 2, 3].length = 3 ∧
    (small false 0b000101 1).ncnt.val + [(2 : DataBits), 3].length = 3 ∧
    (small false 0b101010 2).ncnt.val + [(3 : DataBits)].length = 3 := by decide
/-- ReservedSymbolsChangeNothing, last clause, at both ends of its range. -/
theorem witness_reserved_range : 3 ≤ (0x3#4).toNat ∧ (0x3#4).toNat ≤ 7 ∧ 3 ≤ (0x7#4).toNat ∧ (0x7#4).toNat ≤ 7 := by
  decide
/-- FirstTwoNibblesAccumulate: `ncnt` 0 and 1, and the invariant at its largest `acc`. -/
theorem witness_first_two_nibbles :
    (small true 0 0).ncnt = 0 ∧ (small true 7 1).ncnt = 1 ∧ (small true 7 1).toDecoder.Inv ∧
    (small true 7 1).toDecoder.ncnt ≠ 2 ∧ (small true 0 0).toDecoder.Inv ∧ (small true 0 0).toDecoder.ncnt ≠ 2 := by
  decide
/-- ThirdNibbleCompletesGroup, GroupWhileStartingEmitsStart. -/
theorem witness_third_nibble_starting : (small true 0b111111 2).ncnt = 2 ∧ (small true 0b111111 2).starting = true := by
  decide
/-- ThirdNibbleCompletesGroup, GroupOtherwiseEmitsByte. -/
theorem witness_third_nibble_not_starting : (small false 0 2).ncnt = 2 ∧ (small false 0 2).starting = false := by decide
/-- StepRunsDecodedInstruction, EdgeDoesOneOfThreeThings. -/
theorem witness_symbol_presented :
    ({ small true 0 0 with pins := [{ rst := false, symValid := true, sym := 0xF }] } : State).pins =
      { rst := false, symValid := true, sym := 0xF } :: [] := rfl
/-- FetchWordRunsNext. -/
theorem witness_fetch_word : decodeTableWord 8 0x0F = some (.dk 7) ∧ decodeTableWord 8 0x00 = some .idle := by decide
/-- ResetWinsOverSymbol, EdgeDoesOneOfThreeThings. -/
theorem witness_reset_presented :
    ({ small true 5 1 with pins := [{ rst := true, symValid := true, sym := 0x8 }] } : State).pins =
      { rst := true, symValid := true, sym := 0x8 } :: [] := rfl
/-- PauseHoldsState, EdgeDoesOneOfThreeThings. -/
theorem witness_pause_presented :
    ({ small true 5 1 with pins := [{ rst := false, symValid := false, sym := 0xF }] } : State).pins =
      { rst := false, symValid := false, sym := 0xF } :: [] := rfl
/-- EndOfRunFlushesNothing, with a group in progress. -/
theorem witness_end_of_run : (small true 0b101000 2).pins = [] ∧ (small true 0b101000 2).ncnt = 2 := by decide
/-- EventValidExactlyAfterEmittingSymbol, OutputsLegalAfterAnyStep: a step that emits. -/
theorem witness_step_that_emits :
    step { small false 0 0 with pins := [.ofSymbol 0x2] } =
      .next { starting := true, acc := 0, ncnt := 0, evValid := true, evKind := 2, evData := 0, evAck := false, pins := [] } :=
  rfl
/-- StartingWrittenOnlyAsStated, first clause: by a marker. -/
theorem witness_starting_set :
    (small false 5 1).starting = false ∧
    step { small false 5 1 with pins := [.ofSymbol 0x1] } =
      .next { starting := true, acc := 5, ncnt := 1, evValid := false, evKind := 0, evData := 0, evAck := false, pins := [] } :=
  ⟨rfl, rfl⟩
/-- StartingWrittenOnlyAsStated, second clause: by a completed group. -/
theorem witness_starting_cleared :
    (small true 0 2).starting = true ∧
    step { small true 0 2 with pins := [.ofSymbol 0x8] } =
      .next { starting := false, acc := 0, ncnt := 0, evValid := true, evKind := 0, evData := 0, evAck := true, pins := [] } :=
  ⟨rfl, rfl⟩
/-- GroupWrittenOnlyByResetAndData, at the largest control symbol. -/
theorem witness_group_kept :
    ({ small true 5 1 with pins := [.ofSymbol 0x7] } : State).sampledPins.rst = false ∧
    (0x7#4).toNat < 8 ∧
    step { small true 5 1 with pins := [.ofSymbol 0x7] } =
      .next { starting := true, acc := 5, ncnt := 1, evValid := false, evKind := 0, evData := 0, evAck := false, pins := [] } :=
  ⟨rfl, by decide, rfl⟩
/-- StepKeepsTheInvariant: a state that is not the reset state, and its step. -/
theorem witness_invariant :
    ({ starting := false, acc := 7, ncnt := 1, evValid := false, evKind := 0, evData := 0, evAck := false,
       pins := [.ofSymbol 0xF] } : State).Inv ∧
    step { starting := false, acc := 7, ncnt := 1, evValid := false, evKind := 0, evData := 0, evAck := false,
           pins := [.ofSymbol 0xF] } =
      .next { starting := false, acc := 63, ncnt := 2, evValid := false, evKind := 0, evData := 0, evAck := false,
              pins := [] } :=
  ⟨⟨by decide, rfl, trivial⟩, rfl⟩
/-- MarkersInsideGroupKeepIt: a stop marker and a reserved symbol inside a group (95_test_vectors.md P4). -/
theorem witness_markers_inside_group :
    Decoder.reset.ncnt = 0 ∧ ∀ sym ∈ [(0x7 : Symbol)] ++ [0x2], sym.toNat < 8 := by decide
/-- PresentedByteComesBack, both clauses, and AcknowledgeDoesNotSteer. -/
theorem witness_group_boundary :
    (Decoder.reset.ncnt = 0 ∧ Decoder.reset.starting = true) ∧
    ((small false 0 0).toDecoder.ncnt = 0 ∧ (small false 0 0).toDecoder.acc = 0 ∧
      (small false 0 0).toDecoder.starting = false) := by decide
/-- ByteOnlyAfterStartOrByte: a Start and a Byte (the events of 95_test_vectors.md L1-1). -/
theorem witness_byte_event :
    (Decoder.reset.run [0xD, 0x8, 0x8, 0xD, 0xA, 0xF]).2 =
      [.start 0x50 .write true] ++ .byte 0xAB false :: [] := by decide
/-- RegistersMatchTheDocument. -/
theorem witness_document_invariant : Decoder.reset.Inv ∧ (small false 63 2).toDecoder.Inv := by decide
/-- ClockedRunIsSymbolLevelRun: a symbol, a pause and a symbol. -/
theorem witness_no_reset :
    ∀ p ∈ ({ small true 0 0 with pins := [.ofSymbol 0x2, PinSample.nothing, .ofSymbol 0x8] } : State).pins,
      p.rst = false := by decide
/-- PausesChangeNoEvent: the same symbols, with and without a pause. -/
theorem witness_same_symbols :
    acceptedSymbols [.ofSymbol 0x2, PinSample.nothing, .ofSymbol 0x8] = acceptedSymbols (present [0x2, 0x8]) ∧
    (∀ p ∈ present [0x2, 0x8], p.rst = false) ∧
    (∀ p ∈ [PinSample.ofSymbol 0x2, PinSample.nothing, .ofSymbol 0x8], p.rst = false) := by decide
/-- ResetForgetsThePast: a reset between two symbols. -/
theorem witness_reset_between :
    ({ small true 0 0 with pins := [.ofSymbol 0x9, { rst := true, symValid := true, sym := 0x8 }, .ofSymbol 0x2] } :
        State).pins =
      [.ofSymbol 0x9] ++ { rst := true, symValid := true, sym := 0x8 } :: [.ofSymbol 0x2] ∧
    ∀ p ∈ [PinSample.ofSymbol 0x2], p.rst = false := by decide
/-- SlowSinkOnlyLosesEvents, second clause: a read in the first cycle, and one in the second after a missed Stop. -/
theorem witness_sink_reads :
    (({ small true 0 0 with pins := [.ofSymbol 0x2, .ofSymbol 0x8] } : State).pins =
        [] ++ PinSample.ofSymbol 0x2 :: [.ofSymbol 0x8] ∧
      ([] : List PinSample).length = ([] : List Bool).length ∧
      Host.Core.run Sys2Proof.core 0 { small true 0 0 with pins := [.ofSymbol 0x2, .ofSymbol 0x8] } =
        .next { small true 0 0 with pins := [.ofSymbol 0x2, .ofSymbol 0x8] }) ∧
    (({ small true 0 2 with pins := [.ofSymbol 0x2, .ofSymbol 0x8] } : State).pins =
        [.ofSymbol 0x2] ++ PinSample.ofSymbol 0x8 :: [] ∧
      [PinSample.ofSymbol 0x2].length = [false].length ∧
      Host.Core.run Sys2Proof.core 1 { small true 0 2 with pins := [.ofSymbol 0x2, .ofSymbol 0x8] } =
        .next { starting := true, acc := 0, ncnt := 2, evValid := true, evKind := 2, evData := 0, evAck := false,
                pins := [.ofSymbol 0x8] }) :=
  ⟨⟨rfl, rfl, rfl⟩, rfl, rfl, rfl⟩
/-- MnemonicsAssembleToTheirSymbols: every kind of separation, a comment at the end of the text. -/
theorem witness_text :
    Separation ['\r'] ∧
    (∀ w ∈ [(Instr.s, [' ']), (Instr.dk 5, [','] ++ ['\n']), (Instr.p, ';' :: ['P'] ++ ['\n'])], Separation w.2) ∧
    (∃ body, [';', 'S'] = ';' :: body ∧ ∀ c ∈ body, c ≠ '\n' ∧ c ≠ '\r') := by
  refine ⟨.one _ (by simp), ?_, ['S'], rfl, by simp⟩
  simp only [List.mem_cons, List.not_mem_nil, or_false]
  rintro w (rfl | rfl | rfl)
  · exact .one _ (by simp)
  · exact .append _ _ (.one _ (by simp)) (.one _ (by simp))
  · exact .comment ['P'] _ (by simp) (by simp)
/-- PseudoInstructionsExpand: the largest numbers that fit. -/
theorem witness_operands_fit :
    (Statement.addr 127 .read true).wellFormed = true ∧ (Statement.byte 255 false).wellFormed = true ∧
    (Statement.raw 255).wellFormed = true := by decide

end Sys2Proof.Tests
end

section
/-! The decoder against R73: `Decoder.step` dispatches on the number of a symbol, `exec` on the decoded instruction. They
meet at the encoder, since every symbol is the encoding of the instruction it decodes to. -/

namespace Sys2Proof

/-- No symbol loses information when decoded (R63): a finite check over its 16 values. -/
@[simp] theorem encodeSymbol_decodeSymbol (sym : Symbol) : encodeSymbol (decodeSymbol sym) = sym := by
  revert sym; decide

end Sys2Proof

namespace Sys2Proof.Machine

@[simp] theorem dataField_encodeSymbol_dk (k : DataBits) : dataField (encodeSymbol (.dk k)) = k := by
  revert k; decide

theorem eight_le_toNat_encodeSymbol_dk (k : DataBits) : 8 ≤ (encodeSymbol (.dk k)).toNat := by
  revert k; decide

/-- The last branch of R73's dispatch: the symbols 8 to 15 are the data nibbles. -/
theorem Decoder.step_of_eight_le {sym : Symbol} (h : 8 ≤ sym.toNat) (d : Decoder) :
    d.step sym = Decoder.data (dataField sym) d := by
  have h0 : sym.toNat ≠ 0 := by omega
  have h1 : sym.toNat ≠ 1 := by omega
  have h2 : sym.toNat ≠ 2 := by omega
  have h7 : ¬ sym.toNat ≤ 7 := by omega
  simp only [Decoder.step, h0, h1, h2, h7, if_false]

/-- R73 row by row: `Step` on the symbol of an instruction is that instruction's symbol-level effect. -/
theorem Decoder.step_encodeSymbol (i : Instr) (d : Decoder) : d.step (encodeSymbol i) = effectOf i d := by
  cases i with
  | dk k => rw [Decoder.step_of_eight_le (eight_le_toNat_encodeSymbol_dk k), dataField_encodeSymbol_dk]; rfl
  | idle | s | p | rsv3 | rsv4 | rsv5 | rsv6 | rsv7 => rfl

/-- `Step` of R73 on any symbol is the effect of the instruction it decodes to. -/
theorem Decoder.step_eq_effectOf (sym : Symbol) (d : Decoder) : d.step sym = effectOf (decodeSymbol sym) d := by
  rw [← Decoder.step_encodeSymbol, encodeSymbol_decodeSymbol]

/-- An edge that consumes a symbol applies `Step` through the one clocked wrapper (R73, R139). -/
theorem exec_decodeSymbol (sym : Symbol) (s : State) :
    exec (decodeSymbol sym) s = .next (s.consume (fun d => d.step sym)) := by
  have heffect : effectOf (decodeSymbol sym) = fun d => d.step sym :=
    funext fun d => (Decoder.step_eq_effectOf sym d).symm
  rw [exec_eq_consume, heffect]

/-- Settles O33: `State.consume` of `Step` is the state the statement writes out. -/
theorem execIsSymbolLevelStep : Obligations.ExecIsSymbolLevelStep := by
  intro sym s
  rw [exec_decodeSymbol]
  rfl

end Sys2Proof.Machine
end

section
/-! What one symbol and one edge do to each register: what may set or clear `starting` (R21, R29), what may write the
group in progress (R22, R23, R32), when an event is on the outputs (R33, R114), and the invariant that every edge keeps
(R24, R34). All of it comes from one inversion of `Decoder.step` and one of `step`. -/

namespace Sys2Proof.Machine

/-! ### One symbol -/

/-- The five things a symbol can do at the symbol level, with their guards (R73, R90). -/
theorem Decoder.step_cases (sym : Symbol) (d : Decoder) :
    (sym = 0b0001#4 ∧ d.step sym = (d.setStarting, none)) ∨
      (sym = 0b0010#4 ∧ d.step sym = (d.setStarting, some .stop)) ∨
      (8 ≤ sym.toNat ∧ d.ncnt < 2 ∧ d.step sym = (d.appendNibble (dataField sym), none)) ∨
      (8 ≤ sym.toNat ∧ d.ncnt = 2 ∧ d.step sym = d.complete (dataField sym)) ∨
      (sym.toNat < 8 ∧ sym ≠ 0b0001#4 ∧ sym ≠ 0b0010#4 ∧ d.step sym = (d, none)) := by
  obtain ⟨i, rfl⟩ : ∃ i, encodeSymbol i = sym := ⟨_, encodeSymbol_decodeSymbol sym⟩
  rw [Decoder.step_encodeSymbol]
  cases i with
  | s => exact .inl ⟨rfl, rfl⟩
  | p => exact .inr (.inl ⟨rfl, rfl⟩)
  | dk k =>
    have h8 := eight_le_toNat_encodeSymbol_dk k
    rw [dataField_encodeSymbol_dk]
    rcases Decoder.data_cases k d with ⟨hn, hstep⟩ | ⟨hn, hstep⟩
    · exact .inr (.inr (.inl ⟨h8, hn, hstep⟩))
    · exact .inr (.inr (.inr (.inl ⟨h8, hn, hstep⟩)))
  | idle | rsv3 | rsv4 | rsv5 | rsv6 | rsv7 =>
    exact .inr (.inr (.inr (.inr ⟨by decide, by decide, by decide, rfl⟩)))

/-- R29: a symbol that sets `starting` is a marker. -/
theorem Decoder.marker_of_step_sets_starting {sym : Symbol} {d : Decoder} (h0 : d.starting = false)
    (h1 : (d.step sym).1.starting = true) : sym = 0b0001#4 ∨ sym = 0b0010#4 := by
  rcases Decoder.step_cases sym d with
    ⟨hs, -⟩ | ⟨hp, -⟩ | ⟨-, -, happend⟩ | ⟨-, -, hcomplete⟩ | ⟨-, -, -, hkeep⟩
  · exact .inl hs
  · exact .inr hp
  · simp [happend, h0] at h1
  · simp [hcomplete, Decoder.complete_fst] at h1
  · simp [hkeep, h0] at h1

/-- R29, R92: a symbol that clears `starting` completes a group. -/
theorem Decoder.completes_of_step_clears_starting {sym : Symbol} {d : Decoder} (h1 : d.starting = true)
    (h0 : (d.step sym).1.starting = false) : 8 ≤ sym.toNat ∧ d.ncnt = 2 := by
  rcases Decoder.step_cases sym d with
    ⟨-, hstart⟩ | ⟨-, hstop⟩ | ⟨-, -, happend⟩ | ⟨h8, hn, -⟩ | ⟨-, -, -, hkeep⟩
  · simp [hstart] at h0
  · simp [hstop] at h0
  · simp [happend, h1] at h0
  · exact ⟨h8, hn⟩
  · simp [hkeep, h1] at h0

/-- R32: a control symbol leaves the group in progress alone. -/
theorem Decoder.step_keeps_group_of_lt_eight {sym : Symbol} (h : sym.toNat < 8) (d : Decoder) :
    (d.step sym).1.acc = d.acc ∧ (d.step sym).1.ncnt = d.ncnt := by
  rcases Decoder.step_cases sym d with
    ⟨-, hstart⟩ | ⟨-, hstop⟩ | ⟨h8, -⟩ | ⟨h8, -⟩ | ⟨-, -, -, hkeep⟩
  · simp [hstart]
  · simp [hstop]
  · omega
  · omega
  · simp [hkeep]

/-- R114: the symbols that emit an event. -/
theorem Decoder.step_emits_iff (sym : Symbol) (d : Decoder) :
    (d.step sym).2.isSome = true ↔ sym = 0b0010#4 ∨ (8 ≤ sym.toNat ∧ d.ncnt = 2) := by
  rcases Decoder.step_cases sym d with
    ⟨rfl, hstart⟩ | ⟨rfl, hstop⟩ | ⟨h8, hn, happend⟩ | ⟨h8, hn, hcomplete⟩ | ⟨h8, -, hp, hkeep⟩
  · simp [hstart]
  · simp [hstop]
  · have hp : sym ≠ 0b0010#4 := by rintro rfl; exact absurd h8 (by decide)
    simp [happend, hp, hn.ne]
  · simp [hcomplete, Decoder.complete_snd, h8, hn]
  · simp [hkeep, hp, h8]

/-! ### The parts of the invariant, at one symbol -/

/-- R24 for a group of no nibbles. -/
theorem Decoder.inv_of_acc_eq_zero {d : Decoder} (h : d.acc = 0) : d.Inv := by
  simp [Decoder.Inv, h]

/-- A nibble that still has room in the group shifts the old bits up by three places and counts itself. -/
theorem Decoder.appendNibble_inv {d : Decoder} (hn : d.ncnt < 2) (h : d.Inv) (k : DataBits) :
    (d.appendNibble k).Inv := by
  have hcount : 3 * (d.ncnt + 1).val = 3 * d.ncnt.val + 3 := by omega
  have hshifted : (d.acc <<< 3).toNat < 2 ^ (3 * d.ncnt.val + 3) := by
    calc (d.acc <<< 3).toNat
        ≤ d.acc.toNat * 2 ^ 3 := by
          rw [BitVec.toNat_shiftLeft, Nat.shiftLeft_eq]; exact Nat.mod_le _ _
      _ < 2 ^ (3 * d.ncnt.val) * 2 ^ 3 := Nat.mul_lt_mul_of_pos_right h (by decide)
      _ = 2 ^ (3 * d.ncnt.val + 3) := (pow_add 2 _ 3).symm
  have hnibble : (k.setWidth 6).toNat < 2 ^ (3 * d.ncnt.val + 3) := by
    calc (k.setWidth 6).toNat
        ≤ k.toNat := by rw [BitVec.toNat_setWidth]; exact Nat.mod_le _ _
      _ < 2 ^ 3 := k.isLt
      _ ≤ 2 ^ (3 * d.ncnt.val + 3) := Nat.pow_le_pow_right (by decide) (Nat.le_add_left 3 _)
  simp only [Decoder.Inv, Decoder.appendNibble_acc, Decoder.appendNibble_ncnt, hcount, BitVec.toNat_or]
  exact Nat.or_lt_two_pow hshifted hnibble

/-- R24: every symbol keeps the bound on the accumulator. -/
theorem Decoder.step_inv {d : Decoder} (h : d.Inv) (sym : Symbol) : (d.step sym).1.Inv := by
  rcases Decoder.step_cases sym d with
    ⟨-, hstart⟩ | ⟨-, hstop⟩ | ⟨-, hn, happend⟩ | ⟨-, -, hcomplete⟩ | ⟨-, -, -, hkeep⟩
  · rw [hstart]; exact h
  · rw [hstop]; exact h
  · rw [happend]; exact Decoder.appendNibble_inv hn h _
  · rw [hcomplete, Decoder.complete_fst]; exact Decoder.inv_of_acc_eq_zero rfl
  · rw [hkeep]; exact h

/-- R91 to R93: the event of a completed group fits what the group leaves, whichever of the two events it is. -/
theorem Decoder.complete_eventFits (d : Decoder) (k : DataBits) : EventFits (d.complete k).2 (d.complete k).1 := by
  rw [Decoder.complete_fst, Decoder.complete_snd]
  cases d.starting <;> rfl

/-- R82, R91 to R93: the event of a symbol fits the state that the symbol leaves. -/
theorem Decoder.step_eventFits (sym : Symbol) (d : Decoder) : EventFits (d.step sym).2 (d.step sym).1 := by
  rcases Decoder.step_cases sym d with
    ⟨-, hstart⟩ | ⟨-, hstop⟩ | ⟨-, -, happend⟩ | ⟨-, -, hcomplete⟩ | ⟨-, -, -, hkeep⟩
  · rw [hstart]; trivial
  · rw [hstop]; exact Decoder.setStarting_starting d
  · rw [happend]; trivial
  · rw [hcomplete]; exact Decoder.complete_eventFits d _
  · rw [hkeep]; trivial

/-! ### The output registers -/

/-- The port encoding of R68 is read back: a sink takes the event that was driven. -/
@[simp] theorem Outputs.event?_ofEvent (e : Option Event) : (Outputs.ofEvent e).event? = e := by
  rcases e with _ | ⟨address, direction, acknowledged⟩ | ⟨value, acknowledged⟩ | _
  · rfl
  · simp [Outputs.ofEvent, Outputs.event?]
  · simp [Outputs.ofEvent, Outputs.event?]
  · rfl

/-- What the port encoding drives is legal. -/
theorem Outputs.ofEvent_legal (e : Option Event) : (Outputs.ofEvent e).Legal := by
  rw [Outputs.Legal, Outputs.event?_ofEvent]

/-! ### One edge -/

/-- What an edge leaves in the registers, in the terms of `Step` of R73 (R139). -/
theorem registers_after_step {s t : State} (h : step s = .next t) :
    (s.sampledPins.rst = true ∧ t.toDecoder = Decoder.reset ∧ t.toOutputs = Outputs.quiet) ∨
      (s.sampledPins.rst = false ∧ s.sampledPins.symValid = true ∧
        t.toDecoder = (s.toDecoder.step s.sampledPins.sym).1 ∧
        t.toOutputs = Outputs.ofEvent (s.toDecoder.step s.sampledPins.sym).2) ∨
      (s.sampledPins.rst = false ∧ s.sampledPins.symValid = false ∧
        t.toDecoder = s.toDecoder ∧ t.toOutputs = Outputs.quiet) := by
  rcases step_cases h with ⟨hr, rfl⟩ | ⟨hr, hv, rfl⟩ | ⟨hr, hv, rfl⟩
  · exact .inl ⟨hr, rfl, rfl⟩
  · rw [Decoder.step_eq_effectOf]
    exact .inr (.inl ⟨hr, hv, rfl, rfl⟩)
  · exact .inr (.inr ⟨hr, hv, rfl, rfl⟩)

/-- R33, R139: an event is on the outputs exactly when the edge consumed a symbol that emits one. -/
theorem evValid_after_step_iff {s t : State} (h : step s = .next t) :
    t.evValid = true ↔ s.sampledPins.rst = false ∧ s.sampledPins.symValid = true ∧
      (s.sampledPins.sym = 0b0010#4 ∨ (8 ≤ s.sampledPins.sym.toNat ∧ s.ncnt = 2)) := by
  rcases registers_after_step h with ⟨hr, -, ho⟩ | ⟨hr, hv, -, ho⟩ | ⟨hr, hv, -, ho⟩
  · simp [ho, hr]
  · rw [ho, Outputs.ofEvent_evValid, Decoder.step_emits_iff]
    simp only [hr, hv, true_and]
  · simp [ho, hv]

/-- A symbol that is sampled stands first in the list of samples: the sample that stands for an empty list presents no
symbol (log 3). -/
theorem State.pins_eq_cons_iff_sampledPins (s : State) (sym : Symbol) :
    (∃ rest, s.pins = { rst := false, symValid := true, sym := sym } :: rest) ↔
      s.sampledPins.rst = false ∧ s.sampledPins.symValid = true ∧ s.sampledPins.sym = sym := by
  cases hpins : s.pins with
  | nil => simp [State.sampledPins_of_nil hpins, PinSample.nothing]
  | cons p ps =>
    rw [State.sampledPins_of_cons hpins]
    obtain ⟨rst, symValid, sym'⟩ := p
    simp

/-! ### The statements about every edge -/

/-- Settles O32: the outputs after an edge encode the event of a symbol, or none, and that event fits. -/
theorem outputsLegalAfterAnyStep : Obligations.OutputsLegalAfterAnyStep := by
  intro s t h
  rcases registers_after_step h with ⟨-, -, ho⟩ | ⟨-, -, hd, ho⟩ | ⟨-, -, -, ho⟩
  · rw [ho]; exact ⟨Outputs.ofEvent_legal none, trivial⟩
  · rw [ho, hd, Outputs.event?_ofEvent]
    exact ⟨Outputs.ofEvent_legal _, Decoder.step_eventFits _ _⟩
  · rw [ho]; exact ⟨Outputs.ofEvent_legal none, trivial⟩

/-- Settles O30: only the bound on the accumulator needs the premise; the outputs are O32. -/
theorem stepKeepsTheInvariant : Obligations.StepKeepsTheInvariant := by
  intro s t hs h
  obtain ⟨hlegal, hfits⟩ := outputsLegalAfterAnyStep s t h
  have hgroup : t.toDecoder.Inv := by
    rcases registers_after_step h with ⟨-, hd, -⟩ | ⟨-, -, hd, -⟩ | ⟨-, -, hd, -⟩
    · rw [hd]; exact Decoder.inv_of_acc_eq_zero Decoder.reset_acc
    · rw [hd]; exact Decoder.step_inv hs.group _
    · rw [hd]; exact hs.group
  exact ⟨hgroup, hlegal, hfits⟩

/-- Settles O31. -/
theorem resetMeetsTheInvariant : Obligations.ResetMeetsTheInvariant where
  group := Decoder.inv_of_acc_eq_zero Decoder.reset_acc
  outputs := Outputs.ofEvent_legal none
  fits := trivial

/-- Settles O26: `evValid_after_step_iff`, read on the list of samples. -/
theorem eventValidExactlyAfterEmittingSymbol : Obligations.EventValidExactlyAfterEmittingSymbol := by
  intro s t h
  rw [evValid_after_step_iff h]
  constructor
  · rintro ⟨hr, hv, hemits⟩
    obtain ⟨rest, hpins⟩ := (s.pins_eq_cons_iff_sampledPins _).2 ⟨hr, hv, rfl⟩
    exact ⟨_, rest, hpins, hemits⟩
  · rintro ⟨sym, rest, hpins, hemits⟩
    obtain ⟨hr, hv, rfl⟩ := (s.pins_eq_cons_iff_sampledPins sym).1 ⟨rest, hpins⟩
    exact ⟨hr, hv, hemits⟩

/-- Settles O28: a reset only sets `starting`, a pause holds it, and a symbol writes it as R29 says. -/
theorem startingWrittenOnlyAsStated : Obligations.StartingWrittenOnlyAsStated := by
  intro s t h
  rcases registers_after_step h with ⟨hr, hd, -⟩ | ⟨hr, hv, hd, -⟩ | ⟨-, -, hd, -⟩
  · exact ⟨fun _ _ => .inl hr, fun _ h0 => by simp [hd] at h0⟩
  · rw [hd]
    refine ⟨fun h0 h1 => .inr ⟨hv, Decoder.marker_of_step_sets_starting h0 h1⟩, fun h1 h0 => ?_⟩
    exact ⟨hr, hv, Decoder.completes_of_step_clears_starting h1 h0⟩
  · rw [hd]
    exact ⟨fun h0 h1 => by simp [h0] at h1, fun h1 h0 => by simp [h1] at h0⟩

/-- Settles O29: with no reset, the edge consumed a control symbol or held. -/
theorem groupWrittenOnlyByResetAndData : Obligations.GroupWrittenOnlyByResetAndData := by
  intro s t h hnoReset hcontrol
  rcases registers_after_step h with ⟨hr, -⟩ | ⟨-, hv, hd, -⟩ | ⟨-, -, hd, -⟩
  · simp [hr] at hnoReset
  · rw [hd]; exact Decoder.step_keeps_group_of_lt_eight (hcontrol hv) _
  · rw [hd]; exact ⟨rfl, rfl⟩

/-- Settles O24: the seven values of R35, by evaluation. -/
theorem resetRegisterValues : Obligations.ResetRegisterValues :=
  ⟨rfl, rfl, rfl, rfl, rfl, rfl, rfl⟩

/-- Settles O27: each of the three things an edge can do overwrites the output registers without reading them. -/
theorem outputsAffectNoLaterStep : Obligations.OutputsAffectNoLaterStep := by
  intro s o
  have hpins : { s with toOutputs := o : State }.sampledPins = s.sampledPins := rfl
  cases hr : s.sampledPins.rst with
  | true => rw [step_of_rst hr, step_of_rst (hpins ▸ hr)]; rfl
  | false =>
    cases hv : s.sampledPins.symValid with
    | true =>
      rw [step_of_symbol hr hv, step_of_symbol (hpins ▸ hr) (hpins ▸ hv), hpins, exec_eq_consume, exec_eq_consume]
      rfl
    | false => rw [step_of_pause hr hv, step_of_pause (hpins ▸ hr) (hpins ▸ hv)]; rfl

end Sys2Proof.Machine
end

section
/-! Streams of symbols, instructions and raw bytes: one symbol and one raw byte are taken apart and put together without
loss (R42, R63), and the rules for streams follow by induction along the split of R42, two symbols to a byte. -/

namespace Sys2Proof

/-! ### Instructions and symbols -/

/-- The decoder reads back the symbol of every instruction (R63, R75): a control symbol by its row, a data nibble for
each of its eight values. -/
@[simp] theorem decodeSymbol_encodeSymbol (i : Instr) : decodeSymbol (encodeSymbol i) = i := by
  cases i with
  | dk k => revert k; decide
  | idle | s | p | rsv3 | rsv4 | rsv5 | rsv6 | rsv7 => rfl

/-- Every instruction is one symbol (R60), so a stream is encoded instruction by instruction. -/
theorem encodeStream_eq_map (is : List Instr) : encodeStream is = is.map encodeSymbol :=
  List.map_eq_flatMap.symm

@[simp] theorem length_encodeStream (is : List Instr) : (encodeStream is).length = is.length := by
  rw [encodeStream_eq_map, List.length_map]

@[simp] theorem decodeStream_append (xs ys : List Symbol) :
    decodeStream (xs ++ ys) = decodeStream xs ++ decodeStream ys := List.map_append

@[simp] theorem decodeStream_encodeStream (is : List Instr) : decodeStream (encodeStream is) = is := by
  rw [encodeStream_eq_map, decodeStream, List.map_map]
  exact List.map_id'' decodeSymbol_encodeSymbol is

@[simp] theorem encodeStream_decodeStream (xs : List Symbol) : encodeStream (decodeStream xs) = xs := by
  rw [encodeStream_eq_map, decodeStream, List.map_map]
  exact List.map_id'' encodeSymbol_decodeSymbol xs

end Sys2Proof

namespace Sys2Proof.Machine

/-! ### One raw byte -/

/-- A byte that is put together from two nibbles splits into them, the first in its high nibble. -/
@[simp] theorem symbolsOfByte_append (hi lo : Symbol) : symbolsOfByte (hi ++ lo) = [hi, lo] := by
  have hhigh : highNibble (hi ++ lo) = hi := by revert hi lo; decide
  have hlow : lowNibble (hi ++ lo) = lo := by revert hi lo; decide
  rw [symbolsOfByte, hhigh, hlow]

/-- No bit of a raw byte is outside its two nibbles. -/
@[simp] theorem highNibble_append_lowNibble (r : Byte) : highNibble r ++ lowNibble r = r := by
  revert r; decide

/-- The byte of two nibbles, as a number. -/
theorem append_eq_ofNat (hi lo : Symbol) : hi ++ lo = BitVec.ofNat 8 (16 * hi.toNat + lo.toNat) := by
  apply BitVec.eq_of_toNat_eq
  have hsum : hi.toNat <<< 4 ||| lo.toNat = 16 * hi.toNat + lo.toNat := by
    rw [← Nat.shiftLeft_add_eq_or_of_lt lo.isLt, Nat.shiftLeft_eq, Nat.mul_comm]
  have hbound : 16 * hi.toNat + lo.toNat < 2 ^ 8 := by omega
  rw [BitVec.toNat_append, hsum, BitVec.toNat_ofNat, Nat.mod_eq_of_lt hbound]

theorem highNibble_eq_ofNat (r : Byte) : highNibble r = BitVec.ofNat 4 (r.toNat / 16) := by
  apply BitVec.eq_of_toNat_eq
  rw [highNibble, BitVec.extractLsb'_toNat, BitVec.toNat_ofNat, Nat.shiftRight_eq_div_pow]

theorem lowNibble_eq_ofNat (r : Byte) : lowNibble r = BitVec.ofNat 4 (r.toNat % 16) := by
  apply BitVec.eq_of_toNat_eq
  rw [lowNibble, BitVec.extractLsb'_toNat, BitVec.toNat_ofNat, Nat.shiftRight_zero, Nat.mod_mod]

/-! ### Streams of raw bytes -/

@[simp] theorem symbolsOfBytes_nil : symbolsOfBytes [] = [] := rfl

@[simp] theorem symbolsOfBytes_cons (r : Byte) (rs : List Byte) :
    symbolsOfBytes (r :: rs) = symbolsOfByte r ++ symbolsOfBytes rs := List.flatMap_cons

/-- Packing undoes the split of R42. -/
@[simp] theorem packSymbols_symbolsOfBytes (rs : List Byte) : packSymbols (symbolsOfBytes rs) = rs := by
  induction rs with
  | nil => rfl
  | cons r rs ih =>
    calc packSymbols (symbolsOfBytes (r :: rs))
        = (highNibble r ++ lowNibble r) :: packSymbols (symbolsOfBytes rs) := rfl
      _ = r :: rs := by rw [highNibble_append_lowNibble, ih]

/-- The symbol that fills the last byte of a stream of `n` symbols: one idle when `n` is odd
(95_test_vectors.md section 3, log 13). -/
def idlePadding (n : Nat) : List Instr := if n % 2 = 0 then [] else [.idle]

/-- Two symbols fill a whole byte, so they leave the padding as it was. -/
theorem idlePadding_add_two (n : Nat) : idlePadding (n + 2) = idlePadding n := by
  rw [idlePadding, Nat.add_mod_right, idlePadding]

/-- Splitting undoes packing, up to the padding: by induction along `packSymbols`, two symbols to a byte. -/
theorem symbolsOfBytes_packSymbols (xs : List Symbol) :
    symbolsOfBytes (packSymbols xs) = xs ++ encodeStream (idlePadding xs.length) := by
  induction xs using packSymbols.induct with
  | case1 => rfl
  | case2 hi => rw [packSymbols, symbolsOfBytes_cons, symbolsOfByte_append]; rfl
  | case3 hi lo rest ih =>
    rw [packSymbols, symbolsOfBytes_cons, symbolsOfByte_append, ih]
    simp only [List.length_cons, idlePadding_add_two, List.cons_append, List.nil_append]

/-- Settles O5. -/
theorem rawBytesSplitHighNibbleFirst : Obligations.RawBytesSplitHighNibbleFirst := by
  refine ⟨fun hi lo => ?_, fun r rs => ?_⟩
  · rw [← append_eq_ofNat, symbolsOfByte_append]
  · rw [symbolsOfBytes_cons, symbolsOfByte, highNibble_eq_ofNat, lowNibble_eq_ofNat]; rfl

/-- Settles O4: encoding and decoding cancel, which leaves the split of R42 and packing to cancel. -/
theorem rawStreamDecodesAndEncodesBack : Obligations.RawStreamDecodesAndEncodesBack := by
  refine ⟨decodeStream_encodeStream, fun rs => ?_, fun is => ?_⟩
  · rw [encodeStream_decodeStream, packSymbols_symbolsOfBytes]
  · rw [symbolsOfBytes_packSymbols, decodeStream_append, decodeStream_encodeStream, decodeStream_encodeStream,
      length_encodeStream, idlePadding]

/-! ### The position in the group -/

/-- R61, R62: the data nibbles are the symbols 8 to 15. -/
theorem isDataNibble_iff (sym : Symbol) : isDataNibble sym = true ↔ 8 ≤ sym.toNat := by
  revert sym; decide

/-- R45: a data nibble moves the position on by one, and the third of a group wraps it to 0. -/
theorem Decoder.step_ncnt_of_eight_le {sym : Symbol} (h : 8 ≤ sym.toNat) (d : Decoder) :
    (d.step sym).1.ncnt = d.ncnt + 1 := by
  rw [Decoder.step_of_eight_le h]
  rcases Decoder.data_cases (dataField sym) d with ⟨-, happend⟩ | ⟨hn, hcomplete⟩
  · rw [happend]; rfl
  · rw [hcomplete, Decoder.complete_fst, hn]; rfl

/-- R45, R72: the position counts the data nibbles of the stream modulo 3; by induction on the stream. -/
theorem Decoder.run_ncnt (d : Decoder) (xs : List Symbol) :
    (d.run xs).1.ncnt.val = (d.ncnt.val + xs.countP isDataNibble) % 3 := by
  induction xs generalizing d with
  | nil => exact (Nat.mod_eq_of_lt d.ncnt.isLt).symm
  | cons sym xs ih =>
    rw [Decoder.run_cons, ih]
    by_cases h8 : 8 ≤ sym.toNat
    · rw [List.countP_cons_of_pos ((isDataNibble_iff sym).2 h8), Decoder.step_ncnt_of_eight_le h8]
      omega
    · rw [List.countP_cons_of_neg (mt (isDataNibble_iff sym).1 h8),
        (Decoder.step_keeps_group_of_lt_eight (Nat.lt_of_not_le h8) d).2]

/-- Settles O36: both clauses read off `Decoder.run_ncnt`; the old position cancels modulo 3 (R135). -/
theorem positionCountsDataNibbles : Obligations.PositionCountsDataNibbles := by
  refine ⟨Decoder.run_ncnt, fun d xs ys => ?_⟩
  rw [Fin.ext_iff, Decoder.run_ncnt, Decoder.run_ncnt]
  exact ⟨Nat.ModEq.add_left_cancel' d.ncnt.val, Nat.ModEq.add_left d.ncnt.val⟩

end Sys2Proof.Machine
end

section
/-! The tables of the encoding: what each symbol decodes to and its row (R63), and what the ports carry for each event
(R68) with the event that a sink reads back (R65). -/

namespace Sys2Proof

/-- A symbol stream read from the word of an instruction: the instruction, and what follows it (R60). -/
@[simp] theorem decode_encode_append (i : Instr) (rest : List Symbol) : decode (encode i ++ rest) = .ok (i, rest) := by
  rw [encode, List.singleton_append, decode, decodeSymbol_encodeSymbol]

/-- Of the nine rows of the table, the symbol of an instruction is taken by that instruction's row alone. -/
theorem opcodeTable_filter_accepts_encodeSymbol (i : Instr) :
    opcodeTable.filter (fun r => r.accepts (encodeSymbol i)) = [opcodeRow i] := by
  cases i with
  | dk k => revert k; decide
  | idle | s | p | rsv3 | rsv4 | rsv5 | rsv6 | rsv7 => rfl

/-- Settles O1: the sixteen rows of R63, each by evaluation. -/
theorem symbolMapValueByValue : Obligations.SymbolMapValueByValue :=
  ⟨rfl, rfl, rfl, rfl, rfl, rfl, rfl, rfl, rfl, rfl, rfl, rfl, rfl, rfl, rfl, rfl⟩

/-- Settles O2: every symbol is the symbol of the instruction it decodes to. -/
theorem everySymbolInExactlyOneRow : Obligations.EverySymbolInExactlyOneRow := by
  intro sym
  have hrow := opcodeTable_filter_accepts_encodeSymbol (decodeSymbol sym)
  rwa [encodeSymbol_decodeSymbol] at hrow

/-- Settles O3; no instruction is ill-formed, so the premise is not needed. -/
theorem decodeAndEncodeAgree : Obligations.DecodeAndEncodeAgree := by
  refine ⟨fun i rest _ => decode_encode_append i rest, fun sym => ?_⟩
  rw [encode, encodeSymbol_decodeSymbol]

end Sys2Proof

namespace Sys2Proof.Machine

/-- R68, R70: `ev_kind = 3` is reserved and no event drives it. -/
theorem Outputs.ofEvent_evKind_ne_three (e : Option Event) : (Outputs.ofEvent e).evKind ≠ 3 := by
  rcases e with _ | ⟨address, direction, acknowledged⟩ | ⟨value, acknowledged⟩ | _
  · exact (by decide : (0 : Kind) ≠ 3)
  · exact (by decide : (0 : Kind) ≠ 3)
  · exact (by decide : (1 : Kind) ≠ 3)
  · exact (by decide : (2 : Kind) ≠ 3)

/-- Different events look different on the ports. -/
theorem Outputs.ofEvent_injective : Function.Injective Outputs.ofEvent :=
  Function.LeftInverse.injective Outputs.event?_ofEvent

/-- Settles O7: the rows of R68 by evaluation, and the kind that is never driven. -/
theorem portEncodingOfEvents : Obligations.PortEncodingOfEvents :=
  ⟨fun _ _ => rfl, fun _ _ => rfl, fun _ _ => rfl, rfl, rfl, Outputs.ofEvent_evKind_ne_three⟩

/-- Settles O8. -/
theorem portEncodingLosesNothing : Obligations.PortEncodingLosesNothing :=
  ⟨Outputs.event?_ofEvent, fun _ _ h => Outputs.ofEvent_injective h⟩

end Sys2Proof.Machine
end

section
/-! The group of a presented byte (R69): a 9-bit group is three data nibbles, and also a byte with its acknowledged flag,
and neither view loses a bit. The decoder joins what the source split, so a presented byte comes back as its event; the
expansions of R76 are read off the same numbers. -/

namespace Sys2Proof.Machine

/-! ### Two fields joined, as a number -/

/-- The upper field counts in units of the lower field's range. -/
theorem toNat_append_eq_mul_add {m n : Nat} (x : BitVec m) (y : BitVec n) :
    (x ++ y).toNat = 2 ^ n * x.toNat + y.toNat := by
  rw [BitVec.toNat_append, ← Nat.shiftLeft_add_eq_or_of_lt y.isLt, Nat.shiftLeft_eq, Nat.mul_comm]

/-- R94: the number of a group, nibble by nibble. -/
theorem toNat_groupValue_append (d0 d1 d2 : DataBits) :
    (groupValue (d0 ++ d1) d2).toNat = 64 * d0.toNat + 8 * d1.toNat + d2.toNat := by
  rw [groupValue, toNat_append_eq_mul_add, toNat_append_eq_mul_add]
  omega

/-- R69: the number of a group, as a byte and the inverted acknowledged flag. -/
theorem toNat_groupOf (b : Byte) (acknowledged : Bool) :
    (groupOf b acknowledged).toNat = 2 * b.toNat + (if acknowledged then 0 else 1) := by
  rw [groupOf, toNat_append_eq_mul_add]
  cases acknowledged <;> rfl

/-- R68: the number of an address byte. -/
theorem toNat_addressByte (a : Addr) (direction : Direction) :
    (addressByte a direction).toNat = 2 * a.toNat + (if direction = .read then 1 else 0) := by
  rw [addressByte, toNat_append_eq_mul_add]
  cases direction <;> rfl

/-! ### The group as a byte and its flag -/

@[simp] theorem groupByte_groupOf (b : Byte) (acknowledged : Bool) : groupByte (groupOf b acknowledged) = b := by
  revert b acknowledged; decide

@[simp] theorem groupAck_groupOf (b : Byte) (acknowledged : Bool) :
    groupAck (groupOf b acknowledged) = acknowledged := by
  revert b acknowledged; decide

@[simp] theorem groupOf_groupByte_groupAck (g9 : Group) : groupOf (groupByte g9) (groupAck g9) = g9 := by
  revert g9; decide

/-! ### The group as three data nibbles -/

/-- The nibble of R69 is the symbol `Dk` of R75. -/
theorem dataNibble_eq_encodeSymbol (k : DataBits) : dataNibble k = encodeSymbol (.dk k) := by
  revert k; decide

@[simp] theorem dataNibble_inj {j k : DataBits} : dataNibble j = dataNibble k ↔ j = k := by
  refine ⟨fun h => ?_, congrArg dataNibble⟩
  rw [dataNibble_eq_encodeSymbol, dataNibble_eq_encodeSymbol] at h
  rw [← dataField_encodeSymbol_dk j, h, dataField_encodeSymbol_dk]

/-- The three fields that R69 takes from a group make it up again. -/
theorem groupValue_extractLsb' (g9 : Group) :
    groupValue (g9.extractLsb' 6 3 ++ g9.extractLsb' 3 3) (g9.extractLsb' 0 3) = g9 := by
  revert g9; decide

/-- Each of the three nibbles stands in the group where R69 takes it from. -/
theorem extractLsb'_groupValue_append (d0 d1 d2 : DataBits) :
    (groupValue (d0 ++ d1) d2).extractLsb' 6 3 = d0 ∧ (groupValue (d0 ++ d1) d2).extractLsb' 3 3 = d1 ∧
      (groupValue (d0 ++ d1) d2).extractLsb' 0 3 = d2 := by
  revert d0 d1 d2; decide

/-- Three nibbles present a byte and its flag exactly when they have the same group value. -/
theorem groupSymbols_eq_iff (b : Byte) (acknowledged : Bool) (d0 d1 d2 : DataBits) :
    groupSymbols b acknowledged = [dataNibble d0, dataNibble d1, dataNibble d2] ↔
      groupValue (d0 ++ d1) d2 = groupOf b acknowledged := by
  simp only [groupSymbols, List.cons.injEq, dataNibble_inj, and_true]
  constructor
  · rintro ⟨rfl, rfl, rfl⟩
    exact groupValue_extractLsb' _
  · intro h
    rw [← h]
    exact extractLsb'_groupValue_append d0 d1 d2

/-- Every group is some three nibbles, and the source sends those. -/
theorem exists_groupSymbols_eq (b : Byte) (acknowledged : Bool) : ∃ d0 d1 d2 : DataBits,
    groupSymbols b acknowledged = [dataNibble d0, dataNibble d1, dataNibble d2] ∧
      groupValue (d0 ++ d1) d2 = groupOf b acknowledged :=
  ⟨_, _, _, rfl, groupValue_extractLsb' _⟩

/-- A byte and its flag are read back from their three symbols. -/
theorem groupSymbols_injective {b b' : Byte} {a a' : Bool} (h : groupSymbols b a = groupSymbols b' a') :
    b = b' ∧ a = a' := by
  obtain ⟨d0, d1, d2, hsymbols, hgroup⟩ := exists_groupSymbols_eq b' a'
  have hsame : groupOf b a = groupOf b' a' := by
    rw [← (groupSymbols_eq_iff b a d0 d1 d2).1 (h.trans hsymbols), hgroup]
  constructor
  · rw [← groupByte_groupOf b a, hsame, groupByte_groupOf]
  · rw [← groupAck_groupOf b a, hsame, groupAck_groupOf]

/-- Settles O9: `groupSymbols_eq_iff` carries each clause from symbols to group values. -/
theorem groupSymbolsAreABijection : Obligations.GroupSymbolsAreABijection := by
  refine ⟨fun b a => ?_, fun d0 d1 d2 => ?_, fun _ _ _ _ => groupSymbols_injective, toNat_addressByte⟩
  · obtain ⟨d0, d1, d2, hsymbols, hgroup⟩ := exists_groupSymbols_eq b a
    refine ⟨d0, d1, d2, hsymbols, ?_⟩
    rw [← toNat_groupValue_append, hgroup, toNat_groupOf]
  · refine ⟨groupByte (groupValue (d0 ++ d1) d2), groupAck (groupValue (d0 ++ d1) d2), ?_⟩
    exact (groupSymbols_eq_iff _ _ d0 d1 d2).2 (groupOf_groupByte_groupAck _).symm

/-! ### The run of a presented byte -/

/-- The events of a run in two parts come in the order of the parts (R74, R48); by induction on the first part. -/
theorem Decoder.run_append (d : Decoder) (xs ys : List Symbol) :
    d.run (xs ++ ys) = (((d.run xs).1.run ys).1, (d.run xs).2 ++ ((d.run xs).1.run ys).2) := by
  induction xs generalizing d with
  | nil => rfl
  | cons sym xs ih => rw [List.cons_append, Decoder.run_cons, Decoder.run_cons, ih, List.append_assoc]

/-- Settles O34. -/
theorem runOfTwoPartsIsInOrder : Obligations.RunOfTwoPartsIsInOrder := Decoder.run_append

theorem Decoder.step_dataNibble (d : Decoder) (k : DataBits) : d.step (dataNibble k) = Decoder.data k d := by
  rw [dataNibble_eq_encodeSymbol, Decoder.step_encodeSymbol]
  rfl

/-- Two nibbles fill the six bits of the accumulator, so nothing of its old value is left (R22, R90). -/
theorem Decoder.appendNibble_appendNibble_acc (d : Decoder) (d0 d1 : DataBits) :
    ((d.appendNibble d0).appendNibble d1).acc = d0 ++ d1 := by
  have hgone : d.acc <<< 3 <<< 3 = 0#6 := by
    rw [← BitVec.shiftLeft_add, BitVec.shiftLeft_eq_zero (by decide)]
  have hkept : (d0.setWidth 6) <<< 3 ||| d1.setWidth 6 = (d0 ++ d1 : Acc) := by
    revert d0 d1; decide
  rw [Decoder.appendNibble_acc, Decoder.appendNibble_acc, BitVec.shiftLeft_or_distrib, hgone, BitVec.zero_or, hkept]

/-- From a group boundary three nibbles complete one group, that of their nine bits (R90, R91). -/
theorem Decoder.run_three_dataNibbles {d : Decoder} (hn : d.ncnt = 0) (d0 d1 d2 : DataBits) :
    d.run [dataNibble d0, dataNibble d1, dataNibble d2] =
      ({ starting := false, acc := 0, ncnt := 0 }, [if d.starting then
        .start (addressField (groupByte (groupValue (d0 ++ d1) d2)))
          (directionField (groupByte (groupValue (d0 ++ d1) d2))) (groupAck (groupValue (d0 ++ d1) d2))
        else .byte (groupByte (groupValue (d0 ++ d1) d2)) (groupAck (groupValue (d0 ++ d1) d2))]) := by
  have hfirst : d.step (dataNibble d0) = (d.appendNibble d0, none) := by
    rw [Decoder.step_dataNibble, Decoder.data_of_lt (by simp [hn])]
  have hsecond : (d.appendNibble d0).step (dataNibble d1) = ((d.appendNibble d0).appendNibble d1, none) := by
    rw [Decoder.step_dataNibble, Decoder.data_of_lt (by simp [hn])]
  have hthird : ((d.appendNibble d0).appendNibble d1).step (dataNibble d2) =
      ((d.appendNibble d0).appendNibble d1).complete d2 := by
    rw [Decoder.step_dataNibble, Decoder.data_of_eq (by simp [hn])]
  simp only [Decoder.run_cons, Decoder.run_nil, hfirst, hsecond, hthird, Decoder.complete_fst, Decoder.complete_snd,
    Decoder.appendNibble_appendNibble_acc, Decoder.appendNibble_starting]
  rfl

/-- What the source presents at a group boundary is reported: a Start while `starting` is set, a Byte otherwise
(R69, R92, R93). -/
theorem Decoder.run_groupSymbols {d : Decoder} (hn : d.ncnt = 0) (b : Byte) (acknowledged : Bool) :
    d.run (groupSymbols b acknowledged) =
      ({ starting := false, acc := 0, ncnt := 0 }, [if d.starting then
        .start (addressField b) (directionField b) acknowledged else .byte b acknowledged]) := by
  obtain ⟨d0, d1, d2, hsymbols, hgroup⟩ := exists_groupSymbols_eq b acknowledged
  rw [hsymbols, Decoder.run_three_dataNibbles hn, hgroup, groupByte_groupOf, groupAck_groupOf]

/-- After a Start, bytes are presented one after the other: each leaves the decoder as it found it. -/
theorem Decoder.run_flatMap_groupSymbols (bs : List (Byte × Bool)) :
    Decoder.run { starting := false, acc := 0, ncnt := 0 } (bs.flatMap (fun b => groupSymbols b.1 b.2)) =
      ({ starting := false, acc := 0, ncnt := 0 }, bs.map (fun b => .byte b.1 b.2)) := by
  induction bs with
  | nil => rfl
  | cons b bs ih => rw [List.flatMap_cons, Decoder.run_append, Decoder.run_groupSymbols rfl, ih]; rfl

/-- Settles O39: an address byte by `Decoder.run_groupSymbols`, a list of bytes by induction over it. -/
theorem presentedByteComesBack : Obligations.PresentedByteComesBack := by
  constructor
  · intro d a direction acknowledged hn hstarting
    rw [Decoder.run_groupSymbols hn, if_pos hstarting, addressField_addressByte, directionField_addressByte]
  · rintro ⟨starting, acc, ncnt⟩ bs rfl rfl rfl
    exact Decoder.run_flatMap_groupSymbols bs

/-! ### The expansions of R76 -/

/-- An address that fits and its direction bit, as the number that `BYTE` would take. -/
theorem addressByte_ofNat {a : Nat} (h : a < 128) (direction : Direction) :
    addressByte (BitVec.ofNat 7 a) direction = BitVec.ofNat 8 (2 * a + (if direction = .read then 1 else 0)) := by
  apply BitVec.eq_of_toNat_eq
  rw [toNat_addressByte, BitVec.toNat_ofNat, BitVec.toNat_ofNat, Nat.mod_eq_of_lt h]
  split <;> omega

/-- R42 on a number: its upper and its lower hexadecimal digit. -/
theorem symbolsOfByte_ofNat {xx : Nat} (h : xx < 256) :
    symbolsOfByte (BitVec.ofNat 8 xx) = [BitVec.ofNat 4 (xx / 16), BitVec.ofNat 4 (xx % 16)] := by
  rw [symbolsOfByte, highNibble_eq_ofNat, lowNibble_eq_ofNat, BitVec.toNat_ofNat, Nat.mod_eq_of_lt h]

/-- Settles O49; only `ADDR` and `RAW` need their operands to fit. -/
theorem pseudoInstructionsExpand : Obligations.PseudoInstructionsExpand := by
  refine ⟨fun a direction k h => ⟨?_, rfl⟩, fun v k _ => rfl, fun xx h => ?_, rfl⟩
  · rw [Statement.expand, Statement.expand, addressByte_ofNat (of_decide_eq_true h)]
  · exact symbolsOfByte_ofNat (of_decide_eq_true h)

end Sys2Proof.Machine
end

section
/-! The text of a symbol stream in mnemonics (R75): a word is read up to the next separation, a separation gives no
word, and so the words of a text of mnemonics are those mnemonics, whatever parts them. -/

namespace Sys2Proof.Machine

/-! ### The sixteen mnemonics -/

/-- A character of a word: it neither parts words nor starts a comment. -/
def isWordChar (c : Char) : Bool := !(c == ';') && !isSeparator c

theorem mnemonic_isWordChar (i : Instr) : ∀ c ∈ mnemonic i, isWordChar c = true := by
  rw [← List.all_eq_true]
  cases i with
  | dk k => revert k; decide
  | idle | s | p | rsv3 | rsv4 | rsv5 | rsv6 | rsv7 => rfl

/-- A mnemonic is read as the instruction it was written for: no two of the sixteen are alike. -/
@[simp] theorem instr?_mnemonic (i : Instr) : instr? (mnemonic i) = some i := by
  cases i with
  | dk k => revert k; decide
  | idle | s | p | rsv3 | rsv4 | rsv5 | rsv6 | rsv7 => rfl

/-- No mnemonic is empty, so one that is read in whole is a word. -/
@[simp] theorem flushToken_reverse_mnemonic (i : Instr) : flushToken (mnemonic i).reverse = [mnemonic i] := by
  have hne : (mnemonic i).reverse.isEmpty = false := by cases i <;> rfl
  rw [flushToken, hne, List.reverse_reverse]
  rfl

/-! ### The words of a text -/

@[simp] theorem flushToken_nil : flushToken [] = [] := rfl

theorem tokens_nil (current : Token) : tokens false current [] = flushToken current := by rw [tokens]

theorem tokens_comment_nil : tokens true [] [] = [] := by rw [tokens]; rfl

theorem tokens_semicolon (current : Token) (cs : List Char) :
    tokens false current (';' :: cs) = flushToken current ++ tokens true [] cs := by rw [tokens]; rfl

/-- The characters of a word are gathered, the last one first. -/
theorem tokens_word {word : List Char} (h : ∀ c ∈ word, isWordChar c = true) (current : Token) (cs : List Char) :
    tokens false current (word ++ cs) = tokens false (word.reverse ++ current) cs := by
  induction word generalizing current with
  | nil => rfl
  | cons c word ih =>
    obtain ⟨hc, hword⟩ := List.forall_mem_cons.1 h
    simp only [isWordChar, Bool.and_eq_true, Bool.not_eq_true'] at hc
    obtain ⟨hsemicolon, hseparator⟩ := hc
    rw [List.cons_append, tokens, hsemicolon, hseparator, List.reverse_cons, List.append_assoc]
    exact ih hword (c :: current)

/-- Nothing before the end of the line ends a comment. -/
theorem tokens_comment_body {body : List Char} (h : ∀ c ∈ body, c ≠ '\n' ∧ c ≠ '\r') (cs : List Char) :
    tokens true [] (body ++ cs) = tokens true [] cs := by
  induction body with
  | nil => rfl
  | cons c body ih =>
    obtain ⟨⟨hlf, hcr⟩, hbody⟩ := List.forall_mem_cons.1 h
    have hc : ¬ isLineBreak c = true := by rw [isLineBreak_iff]; exact not_or.2 ⟨hlf, hcr⟩
    rw [List.cons_append, tokens, if_neg hc, ih hbody]

theorem tokens_comment_lineBreak {c : Char} (h : c = '\n' ∨ c = '\r') (cs : List Char) :
    tokens true [] (c :: cs) = tokens false [] cs := by
  rw [tokens, if_pos ((isLineBreak_iff c).2 h)]

/-- A separation ends the word read so far and is no word itself; by induction on how it is put together. -/
theorem tokens_separation {sep : List Char} (h : Separation sep) (current : Token) (cs : List Char) :
    tokens false current (sep ++ cs) = flushToken current ++ tokens false [] cs := by
  induction h generalizing current cs with
  | one c hc => exact tokens_separator ((isSeparator_iff c).2 hc) current cs
  | comment body lineBreak hbody hbreak =>
    calc tokens false current (';' :: body ++ [lineBreak] ++ cs)
        = flushToken current ++ tokens true [] (body ++ lineBreak :: cs) := by
          rw [List.append_assoc, List.cons_append, tokens_semicolon, List.singleton_append]
      _ = flushToken current ++ tokens false [] cs := by
          rw [tokens_comment_body hbody, tokens_comment_lineBreak hbreak]
  | append a b _ _ iha ihb =>
    rw [List.append_assoc, iha, ihb, flushToken_nil, List.nil_append]

/-- What may end a text, nothing or a comment with no line break, ends the word read so far. -/
theorem tokens_ending {ending : List Char}
    (h : ending = [] ∨ ∃ body, ending = ';' :: body ∧ ∀ c ∈ body, c ≠ '\n' ∧ c ≠ '\r') (current : Token) :
    tokens false current ending = flushToken current := by
  rcases h with rfl | ⟨body, rfl, hbody⟩
  · exact tokens_nil current
  · have hcomment : tokens true [] body = [] := by
      rw [← List.append_nil body, tokens_comment_body hbody, tokens_comment_nil]
    rw [tokens_semicolon, hcomment, List.append_nil]

/-- What may begin a text gives no word. -/
theorem tokens_lead {lead : List Char} (h : lead = [] ∨ Separation lead) (cs : List Char) :
    tokens false [] (lead ++ cs) = tokens false [] cs := by
  rcases h with rfl | h
  · rfl
  · exact tokens_separation h [] cs

/-- A last mnemonic is a word though no separation stands after it, when the ending ends a word. -/
theorem tokens_last {ending : List Char} (h : ∀ current, tokens false current ending = flushToken current)
    (last : Option Instr) :
    tokens false [] ((last.map mnemonic).getD [] ++ ending) = last.toList.map mnemonic := by
  cases last with
  | none => exact h []
  | some i =>
    calc tokens false [] (mnemonic i ++ ending)
        = tokens false ((mnemonic i).reverse ++ []) ending := tokens_word (mnemonic_isWordChar i) [] ending
      _ = [mnemonic i] := by rw [List.append_nil, h, flushToken_reverse_mnemonic]

/-- Mnemonics that separations part are the words; by induction on their list. -/
theorem tokens_mnemonics {text : List (Instr × List Char)} (h : ∀ w ∈ text, Separation w.2) (cs : List Char) :
    tokens false [] (text.flatMap (fun w => mnemonic w.1 ++ w.2) ++ cs) =
      text.map (fun w => mnemonic w.1) ++ tokens false [] cs := by
  induction text with
  | nil => rfl
  | cons w text ih =>
    obtain ⟨hsep, htext⟩ := List.forall_mem_cons.1 h
    rw [List.flatMap_cons, List.append_assoc, List.append_assoc, tokens_word (mnemonic_isWordChar w.1),
      List.append_nil, tokens_separation hsep, flushToken_reverse_mnemonic, ih htext]
    rfl

/-! ### From words to symbols -/

/-- Words that are mnemonics are the statements of their symbols. -/
theorem statements_map_mnemonic (is : List Instr) : statements (is.map mnemonic) = .ok (is.map .symbol) := by
  induction is with
  | nil => rw [List.map_nil, statements]; rfl
  | cons i is ih => rw [List.map_cons, statements_of_instr (instr?_mnemonic i), ih]; rfl

/-- No instruction is ill-formed: the field's type has the field's width (R61, R70). -/
@[simp] theorem instr_wellFormed (i : Instr) : i.wellFormed = true := by
  cases i with
  | dk k => exact decide_eq_true k.isLt
  | idle | s | p | rsv3 | rsv4 | rsv5 | rsv6 | rsv7 => rfl

/-- A text whose words are mnemonics assembles to their symbols. -/
theorem assemble_of_tokens {text : List Char} {is : List Instr} (h : tokens false [] text = is.map mnemonic) :
    assemble text = .ok (is.map encodeSymbol) := by
  have hwellFormed : (is.map Statement.symbol).all Statement.wellFormed = true := by
    rw [List.all_map, List.all_eq_true]
    exact fun i _ => instr_wellFormed i
  have hexpand : (is.map Statement.symbol).flatMap Statement.expand = is.map encodeSymbol := by
    rw [List.flatMap_map]
    exact encodeStream_eq_map is
  simp only [assemble, h, statements_map_mnemonic, hwellFormed, hexpand, if_true]

/-- Settles O48: the words of the text are the mnemonics of its instructions, the last one included. -/
theorem mnemonicsAssembleToTheirSymbols : Obligations.MnemonicsAssembleToTheirSymbols := by
  intro lead text last ending hlead htext hending
  have htokens : tokens false []
      (lead ++ text.flatMap (fun w => mnemonic w.1 ++ w.2) ++ (last.map mnemonic).getD [] ++ ending) =
        (text.map Prod.fst ++ last.toList).map mnemonic := by
    rw [List.append_assoc, List.append_assoc, tokens_lead hlead, tokens_mnemonics htext,
      tokens_last (tokens_ending hending), List.map_append, List.map_map]
    rfl
  rw [assemble_of_tokens htokens, List.map_append, List.map_map]
  cases last <;> rfl

end Sys2Proof.Machine
end

section
/-! The marker symbols (R80 to R82) and the symbols that are dropped (R80, R100). Idle and reserved symbols are silent in
every state, so a run does not see them; a start or stop marker sets `starting` and keeps the group in progress, so the
nibbles that fill that group give a Start. -/

namespace Sys2Proof.Machine

/-! ### Symbols that leave no trace -/

/-- R80, R100: symbol 0 and the symbols 3 to 7 change nothing and emit nothing, in every state. -/
theorem Decoder.step_of_dropped {sym : Symbol} (h : sym.toNat = 0 ∨ 3 ≤ sym.toNat ∧ sym.toNat ≤ 7) (d : Decoder) :
    d.step sym = (d, none) := by
  rcases Decoder.step_cases sym d with ⟨rfl, -⟩ | ⟨rfl, -⟩ | ⟨h8, -⟩ | ⟨h8, -⟩ | ⟨-, -, -, hkeep⟩
  · exact absurd h (by decide)
  · exact absurd h (by decide)
  · omega
  · omega
  · exact hkeep

/-- A run does not see a first symbol that is silent in its state. -/
theorem Decoder.run_cons_of_silent {d : Decoder} {sym : Symbol} (h : d.step sym = (d, none)) (xs : List Symbol) :
    d.run (sym :: xs) = d.run xs := by
  rw [Decoder.run_cons, h]
  rfl

/-- R138: symbols that are silent in every state can be taken out of a stream; by induction on the stream. -/
theorem Decoder.run_filter_of_silent {keep : Symbol → Bool}
    (h : ∀ (sym : Symbol) (d : Decoder), keep sym = false → d.step sym = (d, none)) (d : Decoder) (xs : List Symbol) :
    d.run (xs.filter keep) = d.run xs := by
  induction xs generalizing d with
  | nil => rfl
  | cons sym xs ih =>
    cases hkeep : keep sym with
    | true => rw [List.filter_cons_of_pos hkeep, Decoder.run_cons, Decoder.run_cons, ih]
    | false =>
      rw [List.filter_cons_of_neg (by simp [hkeep]), Decoder.run_cons_of_silent (h sym d hkeep), ih]

/-- A symbol that is silent in a state can stand before a stream any number of times. -/
theorem Decoder.run_replicate_append_of_silent {d : Decoder} {sym : Symbol} (h : d.step sym = (d, none)) (n : Nat)
    (xs : List Symbol) : d.run (List.replicate n sym ++ xs) = d.run xs := by
  induction n with
  | zero => rfl
  | succ n ih => rw [List.replicate_succ, List.cons_append, Decoder.run_cons_of_silent h, ih]

/-- Settles O10. -/
theorem idleChangesNothing : Obligations.IdleChangesNothing := by
  refine ⟨rfl, fun s => ?_, fun d => Decoder.run_replicate_append_of_silent ?_⟩
  · rw [exec_eq_consume]; rfl
  · exact Decoder.step_of_dropped (.inl rfl) d

/-- Settles O37: what the filter takes out is silent in every state. -/
theorem droppedSymbolsLeaveNoTrace : Obligations.DroppedSymbolsLeaveNoTrace :=
  Decoder.run_filter_of_silent fun sym d hout => by
    rw [Bool.not_eq_false', Bool.or_eq_true, decide_eq_true_eq, decide_eq_true_eq] at hout
    exact Decoder.step_of_dropped hout d

/-! ### The start and the stop marker -/

theorem Decoder.step_startSymbol (d : Decoder) : d.step 0b0001#4 = (d.setStarting, none) :=
  Decoder.step_encodeSymbol .s d

theorem Decoder.step_stopSymbol (d : Decoder) : d.step 0b0010#4 = (d.setStarting, some .stop) :=
  Decoder.step_encodeSymbol .p d

theorem Decoder.setStarting_of_starting {d : Decoder} (h : d.starting = true) : d.setStarting = d := by
  rw [Decoder.setStarting, ← h]

/-- R92: while `starting` is set, the data nibbles that fill the group in progress give one Start, whatever the group
holds already; by induction on the nibbles, the last of which completes the group. -/
theorem Decoder.run_fill_group_of_starting {d : Decoder} (hstarting : d.starting = true) {ks : List DataBits}
    (hfill : d.ncnt.val + ks.length = 3) :
    ∃ address direction acknowledged, (d.run (ks.map dataNibble)).2 = [.start address direction acknowledged] := by
  induction ks generalizing d with
  | nil => exact absurd hfill d.ncnt.isLt.ne
  | cons k ks ih =>
    rw [List.length_cons] at hfill
    rw [List.map_cons, Decoder.run_cons, Decoder.step_dataNibble]
    rcases Decoder.data_cases k d with ⟨hn, happend⟩ | ⟨hn, hcomplete⟩
    · have hnext : (d.appendNibble k).ncnt.val + ks.length = 3 := by rw [Decoder.appendNibble_ncnt]; omega
      rw [happend]
      exact ih hstarting hnext
    · have hlast : ks = [] := List.eq_nil_of_length_eq_zero (by omega)
      rw [hcomplete, Decoder.complete_snd, if_pos hstarting, hlast]
      exact ⟨_, _, _, rfl⟩

/-- Settles O11: `Decoder.run_fill_group_of_starting` from the state that the marker leaves. -/
theorem startMarkerSetsStarting : Obligations.StartMarkerSetsStarting := by
  refine ⟨rfl, fun s => ?_, fun d hstarting => ?_, fun d ks hfill => ?_⟩
  · rw [exec_eq_consume]; rfl
  · rw [Decoder.step_startSymbol, Decoder.setStarting_of_starting hstarting]
  · rw [Decoder.run_cons, Decoder.step_startSymbol]
    exact Decoder.run_fill_group_of_starting d.setStarting_starting hfill

/-- Settles O12: each stop marker gives its Stop at once, and what follows is as after a start marker. -/
theorem stopMarkerEmitsStop : Obligations.StopMarkerEmitsStop := by
  refine ⟨rfl, fun s => ?_, fun d => ?_, fun d ks hfill => ?_⟩
  · rw [exec_eq_consume]; rfl
  · rw [Decoder.run_cons, Decoder.run_cons, Decoder.step_stopSymbol, Decoder.step_stopSymbol]; rfl
  · obtain ⟨address, direction, acknowledged, hstart⟩ :=
      Decoder.run_fill_group_of_starting d.setStarting_starting hfill
    rw [Decoder.run_cons, Decoder.step_stopSymbol, hstart]
    exact ⟨address, direction, acknowledged, rfl⟩

end Sys2Proof.Machine
end

section
/-! The data nibble (R90 to R95), as numbers: what the fields of a group are, what the first two nibbles leave in the
accumulator, and which event the third gives. The same numbers are the document's, so its unbounded machine and the
registers go in step while R24 holds. -/

namespace Sys2Proof.Machine

/-! ### The fields of a group, as numbers -/

/-- R64, R91: the group at its third nibble. -/
theorem toNat_groupValue (acc : Acc) (k : DataBits) : (groupValue acc k).toNat = 8 * acc.toNat + k.toNat := by
  rw [groupValue, toNat_append_eq_mul_add]
  rfl

theorem toNat_groupByte (g9 : Group) : (groupByte g9).toNat = g9.toNat / 2 := by
  rw [groupByte, BitVec.extractLsb'_toNat, Nat.shiftRight_eq_div_pow]
  omega

theorem toNat_addressField (b8 : Byte) : (addressField b8).toNat = b8.toNat / 2 := by
  rw [addressField, BitVec.extractLsb'_toNat, Nat.shiftRight_eq_div_pow]
  omega

theorem groupAck_eq_decide (g9 : Group) : groupAck g9 = decide (g9.toNat % 2 = 0) := by
  rw [groupAck, BitVec.getLsbD, Nat.testBit_zero, ← decide_not, decide_eq_decide]
  omega

theorem directionField_eq_ite (b8 : Byte) : directionField b8 = if b8.toNat % 2 = 1 then .read else .write := by
  simp only [directionField, BitVec.getLsbD, Nat.testBit_zero, decide_eq_true_eq]

theorem directionField_eq_read_iff (b8 : Byte) : directionField b8 = .read ↔ b8.toNat % 2 = 1 := by
  simp [directionField_eq_ite]

theorem directionField_eq_write_iff (b8 : Byte) : directionField b8 = .write ↔ b8.toNat % 2 = 0 := by
  simp [directionField_eq_ite]

/-- Settles O6: each field is a quotient or a remainder of the number of the group. -/
theorem groupFieldsAsNumbers : Obligations.GroupFieldsAsNumbers := by
  intro d0 d1 d2
  have hgroup := toNat_groupValue_append d0 d1 d2
  simp only [groupAck_eq_decide, decide_eq_true_eq, directionField_eq_read_iff, directionField_eq_write_iff,
    toNat_addressField, toNat_groupByte]
  refine ⟨hgroup, ?_, ?_, ?_, ?_, ?_⟩ <;> omega

/-! ### The group at its third nibble, by the two parts it is made of -/

theorem groupAck_groupValue (acc : Acc) (k : DataBits) :
    groupAck (groupValue acc k) = decide (k.toNat % 2 = 0) := by
  rw [groupAck_eq_decide, toNat_groupValue, decide_eq_decide]
  omega

theorem groupByte_groupValue (acc : Acc) (k : DataBits) :
    groupByte (groupValue acc k) = BitVec.ofNat 8 (4 * acc.toNat + k.toNat / 2) := by
  apply BitVec.eq_of_toNat_eq
  rw [toNat_groupByte, toNat_groupValue, BitVec.toNat_ofNat]
  omega

theorem addressField_groupByte_groupValue (acc : Acc) (k : DataBits) :
    addressField (groupByte (groupValue acc k)) = BitVec.ofNat 7 (2 * acc.toNat + k.toNat / 4) := by
  apply BitVec.eq_of_toNat_eq
  rw [toNat_addressField, toNat_groupByte, toNat_groupValue, BitVec.toNat_ofNat]
  omega

theorem directionField_groupByte_groupValue (acc : Acc) (k : DataBits) :
    directionField (groupByte (groupValue acc k)) = if k.toNat / 2 % 2 = 1 then .read else .write := by
  have hbit : (8 * acc.toNat + k.toNat) / 2 % 2 = k.toNat / 2 % 2 := by omega
  rw [directionField_eq_ite, toNat_groupByte, toNat_groupValue, hbit]

/-! ### The event of a completed group -/

/-- R91 to R93: the event of a completed group, as numbers. -/
theorem Decoder.complete_snd_as_numbers (d : Decoder) (k : DataBits) :
    (d.complete k).2 = some (if d.starting then
      .start (BitVec.ofNat 7 (2 * d.acc.toNat + k.toNat / 4)) (if k.toNat / 2 % 2 = 1 then .read else .write)
        (decide (k.toNat % 2 = 0))
      else .byte (BitVec.ofNat 8 (4 * d.acc.toNat + k.toNat / 2)) (decide (k.toNat % 2 = 0))) := by
  rw [Decoder.complete_snd, addressField_groupByte_groupValue, directionField_groupByte_groupValue,
    groupByte_groupValue, groupAck_groupValue]

/-- R68, R91: a completed group drives its byte and its flag whichever event it is; only the kind tells which. -/
theorem Outputs.ofEvent_complete_snd (d : Decoder) (k : DataBits) :
    Outputs.ofEvent (d.complete k).2 =
      { evValid := true, evKind := if d.starting then 0 else 1,
        evData := BitVec.ofNat 8 (4 * d.acc.toNat + k.toNat / 2), evAck := decide (k.toNat % 2 = 0) } := by
  rw [Decoder.complete_snd, ← groupByte_groupValue, ← groupAck_groupValue d.acc]
  cases d.starting with
  | false => rfl
  | true => simp only [if_true, Outputs.ofEvent, addressByte_fields]

/-! ### The first two nibbles -/

theorem ofNat_eight_add_toNat (k : DataBits) : BitVec.ofNat 4 (8 + k.toNat) = encodeSymbol (.dk k) := by
  revert k; decide

/-- Three data bits joined below a number. -/
theorem shiftLeft_three_or_toNat (n : Nat) (k : DataBits) : n <<< 3 ||| k.toNat = 8 * n + k.toNat := by
  rw [← Nat.shiftLeft_add_eq_or_of_lt k.isLt, Nat.shiftLeft_eq, Nat.mul_comm]

/-- R24: the accumulator of a group of fewer than two nibbles has room for three bits more. -/
theorem Decoder.acc_lt_eight_of_inv {d : Decoder} (h : d.Inv) (hn : d.ncnt < 2) : d.acc.toNat < 8 :=
  calc d.acc.toNat
      < 2 ^ (3 * d.ncnt.val) := h
    _ ≤ 2 ^ 3 := Nat.pow_le_pow_right (by decide) (by omega)

/-- R24, R90: no bit is lost while the accumulator has room. -/
theorem Decoder.toNat_appendNibble_acc {d : Decoder} (h : d.Inv) (hn : d.ncnt < 2) (k : DataBits) :
    (d.appendNibble k).acc.toNat = 8 * d.acc.toNat + k.toNat := by
  have hacc := Decoder.acc_lt_eight_of_inv h hn
  have hshifted : (d.acc <<< 3).toNat = d.acc.toNat <<< 3 := by
    rw [BitVec.toNat_shiftLeft, Nat.shiftLeft_eq]
    omega
  have hnibble : (k.setWidth 6).toNat = k.toNat := by
    rw [BitVec.toNat_setWidth]
    omega
  rw [Decoder.appendNibble_acc, BitVec.toNat_or, hshifted, hnibble, shiftLeft_three_or_toNat]

/-! ### Executing a data nibble -/

/-- R90: the edge of a first or second nibble. -/
theorem exec_dk_of_lt {s : State} (hn : s.ncnt < 2) (k : DataBits) :
    exec (.dk k) s = .next { s with toDecoder := s.toDecoder.appendNibble k, toOutputs := Outputs.quiet } := by
  rw [exec_eq_consume, State.consume, effectOf, Decoder.data_of_lt hn]
  rfl

/-- R91: the edge of a third nibble. -/
theorem exec_dk_of_eq {s : State} (hn : s.ncnt = 2) (k : DataBits) :
    exec (.dk k) s = .next { s with toDecoder := { starting := false, acc := 0, ncnt := 0 },
                                    toOutputs := Outputs.ofEvent (s.toDecoder.complete k).2 } := by
  rw [exec_eq_consume, State.consume, effectOf, Decoder.data_of_eq hn, Decoder.complete_fst]

/-- Settles O14: the edges by `exec_dk_of_lt`, the number by `Decoder.toNat_appendNibble_acc`. -/
theorem firstTwoNibblesAccumulate : Obligations.FirstTwoNibblesAccumulate := by
  refine ⟨fun k => ?_, fun k s hn => ?_, fun k s hn => ?_, fun k d h hn => ?_⟩
  · rw [ofNat_eight_add_toNat, decodeSymbol_encodeSymbol]
  · rw [exec_dk_of_lt (by rw [hn]; decide), Decoder.appendNibble, hn]; rfl
  · rw [exec_dk_of_lt (by rw [hn]; decide), Decoder.appendNibble, hn]; rfl
  · have hlt : d.ncnt < 2 := by omega
    rw [ofNat_eight_add_toNat, Decoder.step_encodeSymbol, effectOf, Decoder.data_of_lt hlt,
      Decoder.toNat_appendNibble_acc h hlt]

/-- Settles O15. -/
theorem thirdNibbleCompletesGroup : Obligations.ThirdNibbleCompletesGroup := by
  intro k s hn
  rw [exec_dk_of_eq hn, Outputs.ofEvent_complete_snd]

/-- Settles O16: a sink reads back the event that `Decoder.complete_snd_as_numbers` gives. -/
theorem groupWhileStartingEmitsStart : Obligations.GroupWhileStartingEmitsStart := by
  intro k s hn hstarting
  refine ⟨_, exec_dk_of_eq hn k, rfl, rfl, rfl, rfl, ?_⟩
  rw [Outputs.event?_ofEvent, Decoder.complete_snd_as_numbers, if_pos hstarting]

/-- Settles O17: as O16, with the other event. -/
theorem groupOtherwiseEmitsByte : Obligations.GroupOtherwiseEmitsByte := by
  intro k s hn hstarting
  refine ⟨_, exec_dk_of_eq hn k, rfl, rfl, rfl, rfl, ?_⟩
  rw [Outputs.event?_ofEvent, Decoder.complete_snd_as_numbers, if_neg (by simp [hstarting])]

/-! ### The document's machine -/

/-- The state of the document that the registers stand for (R20, R25, R95). -/
def Decoder.toDocument (d : Decoder) : Document :=
  { starting := d.starting, bits := d.acc.toNat, nbits := 3 * d.ncnt.val }

@[simp] theorem Decoder.toDocument_nbits (d : Decoder) : d.toDocument.nbits = 3 * d.ncnt.val := rfl

/-- The event of the document's words: its shifts and masks are quotients and remainders (R91 to R93). -/
theorem Document.event_eq_ite (starting : Bool) (bits : Nat) :
    Document.event starting bits = if starting then
      .start (BitVec.ofNat 7 (bits / 4)) (if bits / 2 % 2 = 1 then .read else .write) (decide (bits % 2 = 0))
      else .byte (BitVec.ofNat 8 (bits / 2)) (decide (bits % 2 = 0)) := by
  have hack : (!(bits % 2 == 1)) = decide (bits % 2 = 0) := by
    rcases Nat.mod_two_eq_zero_or_one bits with h | h <;> rw [h] <;> rfl
  simp only [Document.event, Nat.shiftRight_eq_div_pow, pow_one, Nat.div_div_eq_div_mul, Nat.reduceMul,
    Nat.and_one_is_mod, hack, beq_iff_eq]

/-- R95: a group completes with the event that the document reads off its bits. -/
theorem Decoder.complete_snd_eq_document_event (d : Decoder) (k : DataBits) :
    (d.complete k).2 = some (Document.event d.starting (8 * d.acc.toNat + k.toNat)) := by
  have haddress : (8 * d.acc.toNat + k.toNat) / 4 = 2 * d.acc.toNat + k.toNat / 4 := by omega
  have hdirection : (8 * d.acc.toNat + k.toNat) / 2 % 2 = k.toNat / 2 % 2 := by omega
  have hbyte : (8 * d.acc.toNat + k.toNat) / 2 = 4 * d.acc.toNat + k.toNat / 2 := by omega
  have hack : (8 * d.acc.toNat + k.toNat) % 2 = k.toNat % 2 := by omega
  rw [Decoder.complete_snd_as_numbers, Document.event_eq_ite, haddress, hdirection, hbyte, hack]

theorem toNat_and_seven (sym : Symbol) : sym.toNat &&& 7 = (dataField sym).toNat := by
  revert sym; decide

/-- The fourth case of R73 in the document: three data bits are joined to `bits`, the ninth bit completes a group. -/
theorem Document.step_of_eight_le {sym : Symbol} (h : 8 ≤ sym.toNat) (s : Document) :
    s.step sym = if s.nbits = 6 then
      ({ starting := false, bits := 0, nbits := 0 },
        some (Document.event s.starting (8 * s.bits + (dataField sym).toNat)))
      else ({ s with bits := 8 * s.bits + (dataField sym).toNat, nbits := s.nbits + 3 }, none) := by
  have h0 : sym.toNat ≠ 0 := by omega
  have h1 : sym.toNat ≠ 1 := by omega
  have h2 : sym.toNat ≠ 2 := by omega
  have h15 : 8 ≤ sym.toNat ∧ sym.toNat ≤ 15 := by omega
  simp only [Document.step, h0, h1, h2, h15, and_self, if_true, if_false, toNat_and_seven,
    shiftLeft_three_or_toNat, Nat.reduceEqDiff]

/-- The first and the last case of R73 in the document: nothing happens. -/
theorem Document.step_of_silent {sym : Symbol} (h8 : sym.toNat < 8) (h1 : sym ≠ 0b0001#4) (h2 : sym ≠ 0b0010#4)
    (s : Document) : s.step sym = (s, none) := by
  have hstart : sym.toNat ≠ 1 := fun h => h1 (BitVec.eq_of_toNat_eq h)
  have hstop : sym.toNat ≠ 2 := fun h => h2 (BitVec.eq_of_toNat_eq h)
  have hdata : ¬ (8 ≤ sym.toNat ∧ sym.toNat ≤ 15) := by omega
  simp only [Document.step, hstart, hstop, hdata, if_false, ite_self]

/-- R95 at one symbol: from a state that meets R24, the document's step and the registers' step agree; in the cases of
`Decoder.step_cases`. Only the joined bits need R24. -/
theorem Document.step_toDocument {d : Decoder} (h : d.Inv) (sym : Symbol) :
    d.toDocument.step sym = ((d.step sym).1.toDocument, (d.step sym).2) := by
  rcases Decoder.step_cases sym d with
    ⟨rfl, hstart⟩ | ⟨rfl, hstop⟩ | ⟨h8, hn, happend⟩ | ⟨h8, hn, hcomplete⟩ | ⟨h8, h1, h2, hkeep⟩
  · rw [hstart]; rfl
  · rw [hstop]; rfl
  · have hroom : d.toDocument.nbits ≠ 6 := by rw [Decoder.toDocument_nbits]; omega
    have hcount : 3 * (d.ncnt + 1).val = 3 * d.ncnt.val + 3 := by omega
    rw [happend, Document.step_of_eight_le h8, if_neg hroom]
    simp only [Decoder.toDocument, Decoder.toNat_appendNibble_acc h hn, Decoder.appendNibble_starting,
      Decoder.appendNibble_ncnt, hcount]
  · have hfull : d.toDocument.nbits = 6 := by rw [Decoder.toDocument_nbits, hn]; rfl
    rw [hcomplete, Document.step_of_eight_le h8, if_pos hfull, Decoder.complete_fst,
      Decoder.complete_snd_eq_document_event]
    rfl
  · rw [hkeep, Document.step_of_silent h8 h1 h2]

/-- R95 for a stream: by induction on it, since every symbol keeps R24. -/
theorem Document.run_toDocument {d : Decoder} (h : d.Inv) (xs : List Symbol) :
    d.toDocument.run xs = ((d.run xs).1.toDocument, (d.run xs).2) := by
  induction xs generalizing d with
  | nil => rfl
  | cons sym xs ih =>
    rw [Document.run, Document.step_toDocument h, ih (Decoder.step_inv h sym), Decoder.run_cons]

/-- Settles O42. -/
theorem registersMatchTheDocument : Obligations.RegistersMatchTheDocument :=
  fun _ xs h => Document.run_toDocument h xs

end Sys2Proof.Machine
end

section
/-! The reserved symbols (R100): their five instructions share one symbol-level effect, which keeps the state and emits
nothing, so an edge that consumes any of them only quiets the output registers. -/

namespace Sys2Proof.Machine

/-- R100, R139: the edge of any instruction whose effect is the reserved one writes the output registers only. -/
theorem exec_of_effectOf_eq_reserved {i : Instr} (h : effectOf i = Decoder.reserved) (s : State) :
    exec i s = .next { s with toOutputs := Outputs.quiet } := by
  have hconsume : s.consume Decoder.reserved = { s with toOutputs := Outputs.quiet } := State.eq_of_parts rfl rfl rfl
  rw [exec_eq_consume, h, hconsume]

/-- Settles O13: the edges by `exec_of_effectOf_eq_reserved`, the symbol level by `Decoder.step_of_dropped`. -/
theorem reservedSymbolsChangeNothing : Obligations.ReservedSymbolsChangeNothing := by
  refine ⟨⟨rfl, rfl, rfl, rfl, rfl⟩, fun s => ?_, fun d sym hlow hhigh => ?_⟩
  · have hquiet {i : Instr} (h : effectOf i = Decoder.reserved) := exec_of_effectOf_eq_reserved h s
    exact ⟨hquiet rfl, hquiet rfl, hquiet rfl, hquiet rfl, hquiet rfl⟩
  · exact Decoder.step_of_dropped (.inr ⟨hlow, hhigh⟩) d

end Sys2Proof.Machine
end

section
/-! No faults and no feedback from the sink (R110 to R118). Every edge completes and takes one sample, so a run of edges
always goes on and its position in the samples is known; a sink reads what the edges leave on the outputs and steers
nothing. At the symbol level the events are counted by what their symbols put into the position of the group. -/

namespace Sys2Proof.Machine

/-! ### Every edge completes -/

/-- R110, R41: an edge answers a next state, whichever of its three things it does, and takes one sample. -/
theorem exists_step_eq_next (s : State) : ∃ t, step s = .next t ∧ t.pins = s.pins.tail := by
  cases hr : s.sampledPins.rst with
  | true => exact ⟨_, step_of_rst hr, rfl⟩
  | false =>
    cases hv : s.sampledPins.symValid with
    | true => exact ⟨_, (step_of_symbol hr hv).trans (exec_eq_consume _ _), rfl⟩
    | false => exact ⟨_, step_of_pause hr hv, rfl⟩

theorem pins_after_step {s t : State} (h : step s = .next t) : t.pins = s.pins.tail := by
  obtain ⟨t', hstep, hpins⟩ := exists_step_eq_next s
  cases h.symm.trans hstep
  exact hpins

/-- Settles O25: the only thing an instruction does to a state is `State.consume`, which leaves the samples. -/
theorem everySymbolAndEdgeCompletes : Obligations.EverySymbolAndEdgeCompletes :=
  ⟨fun i s => ⟨_, exec_eq_consume i s, State.consume_pins _ s⟩, exists_step_eq_next⟩

/-- Settles O21: the reset branch of `step` comes first, and neither `symValid` nor `sym` stands in its result. -/
theorem resetWinsOverSymbol : Obligations.ResetWinsOverSymbol := by
  intro s symValid sym rest hpins
  have hrst : s.sampledPins.rst = true := by rw [State.sampledPins_of_cons hpins]
  have hrest : s.passEdge.resetRegisters.pins = rest := by simp [hpins]
  rw [step_of_rst hrst]
  exact congrArg Host.Outcome.next (State.eq_of_parts rfl rfl hrest)

/-! ### Counting events -/

theorem ne_stopSymbol_of_eight_le {sym : Symbol} (h : 8 ≤ sym.toNat) : sym ≠ 0b0010#4 := by
  rintro rfl
  exact absurd h (by decide)

/-- R48, R114: the account of one symbol, in thirds of an event. A data nibble brings one third, which the position of
the group holds until the third nibble turns it into an event; a stop marker brings its whole event. -/
theorem Decoder.step_event_account (sym : Symbol) (d : Decoder) :
    3 * (d.step sym).2.toList.length + (d.step sym).1.ncnt.val =
      3 * (if sym == 0b0010#4 then 1 else 0) + (d.ncnt.val + if isDataNibble sym then 1 else 0) := by
  rcases Decoder.step_cases sym d with
    ⟨rfl, hstart⟩ | ⟨rfl, hstop⟩ | ⟨h8, hn, happend⟩ | ⟨h8, hn, hcomplete⟩ | ⟨h8, -, hp, hkeep⟩
  · rw [hstart]; simp [isDataNibble]
  · rw [hstop]; simp [isDataNibble]
  · have hnext : (d.ncnt + 1).val = d.ncnt.val + 1 := by omega
    simp [happend, ne_stopSymbol_of_eight_le h8, (isDataNibble_iff sym).2 h8, hnext]
  · simp [hcomplete, Decoder.complete_fst, Decoder.complete_snd, ne_stopSymbol_of_eight_le h8,
      (isDataNibble_iff sym).2 h8, hn]
  · have hdata : isDataNibble sym = false :=
      Bool.eq_false_iff.2 (mt (isDataNibble_iff sym).1 (Nat.not_le_of_lt h8))
    simp [hkeep, hp, hdata]

/-- The account of a run, by induction on the stream: nothing brought in is dropped or counted twice. -/
theorem Decoder.run_event_account (d : Decoder) (xs : List Symbol) :
    3 * (d.run xs).2.length + (d.run xs).1.ncnt.val =
      3 * xs.count 0b0010#4 + (d.ncnt.val + xs.countP isDataNibble) := by
  induction xs generalizing d with
  | nil => simp
  | cons sym xs ih =>
    have hsym := Decoder.step_event_account sym d
    have hrest := ih (d.step sym).1
    simp only [Decoder.run_cons, List.length_append, List.count_cons, List.countP_cons]
    omega

/-- R114: at most one event to a symbol; by induction on the stream. -/
theorem Decoder.length_run_events_le (d : Decoder) (xs : List Symbol) : (d.run xs).2.length ≤ xs.length := by
  induction xs generalizing d with
  | nil => exact Nat.le_refl 0
  | cons sym xs ih =>
    rw [Decoder.run_cons, List.length_append, List.length_cons, Nat.add_comm]
    exact Nat.add_le_add (ih _) Option.length_toList_le

/-- Settles O35: the position that the account leaves over is below 3, so it is lost in the division. -/
theorem eventsCountStopsAndGroups : Obligations.EventsCountStopsAndGroups := by
  refine ⟨Decoder.length_run_events_le, fun d xs => ?_⟩
  have haccount := Decoder.run_event_account d xs
  have hleft := (d.run xs).1.ncnt.isLt
  omega

/-! ### The acknowledge bit -/

/-- Settles O40: the group leaves the same state either way (R91 to R93), and what follows is run from that state. -/
theorem acknowledgeDoesNotSteer : Obligations.AcknowledgeDoesNotSteer := by
  intro d b xs hn
  refine ⟨(Decoder.run ⟨false, 0, 0⟩ xs).1, (Decoder.run ⟨false, 0, 0⟩ xs).2, fun acknowledged => ?_⟩
  rw [Decoder.run_append, Decoder.run_groupSymbols hn]
  rfl

/-! ### Runs of edges -/

theorem run_succ_of_step {s t : State} (h : step s = .next t) (k : Nat) :
    Host.Core.run Sys2Proof.core (k + 1) s = Host.Core.run Sys2Proof.core k t := by
  have hcore : Sys2Proof.core.step s = .next t := h
  simp only [Host.Core.run, hcore]

/-- R41: a run takes one sample at each of its edges; by induction on their number. -/
theorem pins_after_run {s u : State} {k : Nat} (h : Host.Core.run Sys2Proof.core k s = .next u) :
    u.pins = s.pins.drop k := by
  induction k generalizing s with
  | zero => cases h; rfl
  | succ k ih =>
    obtain ⟨t, hstep, hpins⟩ := exists_step_eq_next s
    rw [run_succ_of_step hstep] at h
    rw [ih h, hpins, List.drop_tail]

/-! ### What a sink takes -/

@[simp] theorem eventsTaken_nil (s : State) : eventsTaken [] s = [] := rfl

theorem eventsTaken_cons {s t : State} (h : step s = .next t) (now : Bool) (later : List Bool) :
    eventsTaken (now :: later) s = (if now then t.toOutputs.event?.toList else []) ++ eventsTaken later t := by
  rw [eventsTaken, h]

/-- R137: what a sink takes in later cycles depends on the state that the earlier edges left, not on what it read then;
by induction on the earlier cycles. -/
theorem eventsTaken_append {s u : State} {reads : List Bool}
    (h : Host.Core.run Sys2Proof.core reads.length s = .next u) (later : List Bool) :
    eventsTaken (reads ++ later) s = eventsTaken reads s ++ eventsTaken later u := by
  induction reads generalizing s with
  | nil => cases h; rfl
  | cons now reads ih =>
    obtain ⟨t, hstep, -⟩ := exists_step_eq_next s
    rw [List.length_cons, run_succ_of_step hstep] at h
    rw [List.cons_append, eventsTaken_cons hstep, eventsTaken_cons hstep, ih h, List.append_assoc]

/-- R34, R139: the outputs after an edge carry the event of the symbol that the edge accepted, and otherwise none. -/
theorem event?_after_step {s t : State} (h : step s = .next t) :
    t.toOutputs.event? =
      if s.sampledPins.rst = false ∧ s.sampledPins.symValid = true then (s.toDecoder.step s.sampledPins.sym).2
      else none := by
  rcases registers_after_step h with ⟨hr, -, ho⟩ | ⟨hr, hv, -, ho⟩ | ⟨-, hv, -, ho⟩
  · rw [ho, if_neg (by simp [hr])]; rfl
  · rw [ho, if_pos ⟨hr, hv⟩, Outputs.event?_ofEvent]
  · rw [ho, if_neg (by simp [hv])]; rfl

/-- R118: one cycle of a sink, in the terms of `Step` of R73. -/
theorem eventsTaken_singleton (u : State) (now : Bool) :
    eventsTaken [now] u =
      if now = true ∧ u.sampledPins.rst = false ∧ u.sampledPins.symValid = true then
        (u.toDecoder.step u.sampledPins.sym).2.toList
      else [] := by
  obtain ⟨t, hstep, -⟩ := exists_step_eq_next u
  rw [eventsTaken_cons hstep, eventsTaken_nil, List.append_nil, event?_after_step hstep]
  cases now with
  | true => simp only [if_true, true_and, apply_ite Option.toList, Option.toList_none]
  | false => simp only [Bool.false_eq_true, if_false, false_and]

/-- A sink that does not read in a cycle loses what is on the outputs then, and nothing else; by induction on the
cycles. -/
theorem eventsTaken_sublist_eventsSeen (s : State) (reads : List Bool) :
    List.Sublist (eventsTaken reads s) (eventsSeen reads.length s) := by
  induction reads generalizing s with
  | nil => exact List.Sublist.refl []
  | cons now reads ih =>
    obtain ⟨t, hstep, -⟩ := exists_step_eq_next s
    rw [eventsTaken_cons hstep, List.length_cons, eventsSeen_succ hstep]
    refine List.Sublist.append ?_ (ih t)
    cases now with
    | true => exact List.Sublist.refl _
    | false => exact List.nil_sublist _

/-- A sink that keeps its duty misses nothing; by induction on the cycles. -/
theorem eventsTaken_replicate_true (s : State) (k : Nat) : eventsTaken (List.replicate k true) s = eventsSeen k s := by
  induction k generalizing s with
  | zero => rfl
  | succ k ih =>
    obtain ⟨t, hstep, -⟩ := exists_step_eq_next s
    rw [List.replicate_succ, eventsTaken_cons hstep, eventsSeen_succ hstep, ih t, if_pos rfl]

/-- Settles O47: a read in cycle `i` is `eventsTaken_singleton` in the state after `i` edges, whose next sample is the
`i`-th one presented (`pins_after_run`). -/
theorem slowSinkOnlyLosesEvents : Obligations.SlowSinkOnlyLosesEvents := by
  refine ⟨fun _ _ => event?_after_step, ?_, eventsTaken_sublist_eventsSeen, eventsTaken_replicate_true⟩
  intro s u reads now before after p hpins hlength hrun
  have hsampled : u.sampledPins = p := by
    apply State.sampledPins_of_cons (ps := after)
    rw [pins_after_run hrun, hpins, List.drop_left]
  rw [hlength] at hrun
  rw [eventsTaken_append hrun, eventsTaken_singleton, hsampled]

end Sys2Proof.Machine
end

section
/-! The clock (R139 to R142). An edge does one of three things; with no reset in the samples, a run of edges is the
symbol-level run of what the edges accepted, pauses or not; and a reset cuts a run in two, of which the second half starts
from the reset state whatever the first one did. -/

namespace Sys2Proof.Machine

/-! ### One edge, by the sample it takes -/

theorem State.passEdge_of_cons {s : State} {p : PinSample} {rest : List PinSample} (h : s.pins = p :: rest) :
    s.passEdge = { s with pins := rest } := by
  rw [State.passEdge, h, List.tail_cons]

/-- Settles O18: the guards of R139 are tested in their order, and each branch is the state it leaves. -/
theorem edgeDoesOneOfThreeThings : Obligations.EdgeDoesOneOfThreeThings := by
  intro s p rest hpins
  have hsampled := State.sampledPins_of_cons hpins
  cases hr : p.rst with
  | true => rw [step_of_rst (hsampled ▸ hr), State.passEdge_of_cons hpins]; rfl
  | false =>
    cases hv : p.symValid with
    | true =>
      rw [step_of_symbol (hsampled ▸ hr) (hsampled ▸ hv), hsampled, exec_decodeSymbol, State.passEdge_of_cons hpins]
      refine congrArg Host.Outcome.next (State.eq_of_parts rfl ?_ rfl)
      cases hevent : (s.toDecoder.step p.sym).2 <;> simp [hevent, Outputs.quiet]
    | false => rw [step_of_pause (hsampled ▸ hr) (hsampled ▸ hv), State.passEdge_of_cons hpins]; rfl

/-- Settles O19. -/
theorem stepRunsDecodedInstruction : Obligations.StepRunsDecodedInstruction := by
  intro s sym rest hpins
  have hsampled := State.sampledPins_of_cons hpins
  rw [step_of_symbol (by rw [hsampled]) (by rw [hsampled]), hsampled, State.passEdge_of_cons hpins]

/-- Settles O22: the last branch of O18, in which `sym` does not stand. -/
theorem pauseHoldsState : Obligations.PauseHoldsState :=
  fun s _ rest hpins => edgeDoesOneOfThreeThings s _ rest hpins

/-! ### Runs without a reset -/

/-- R41, R139, R140: an edge without a reset does what the symbol it accepts does to the symbol-level run, and nothing
when it accepts none. -/
theorem run_acceptedSymbols_of_step {s t : State} {p : PinSample} {rest : List PinSample} (hpins : s.pins = p :: rest)
    (hr : p.rst = false) (h : step s = .next t) :
    s.toDecoder.run (acceptedSymbols (p :: rest)) =
      ((t.toDecoder.run (acceptedSymbols rest)).1,
        t.toOutputs.event?.toList ++ (t.toDecoder.run (acceptedSymbols rest)).2) := by
  have hcases := registers_after_step h
  rw [State.sampledPins_of_cons hpins] at hcases
  rcases hcases with ⟨hrst, -⟩ | ⟨-, hv, hd, ho⟩ | ⟨-, hv, hd, ho⟩
  · simp [hr] at hrst
  · rw [acceptedSymbols_cons_of_accepts (by simp [PinSample.accepts, hr, hv]), Decoder.run_cons, hd, ho,
      Outputs.event?_ofEvent]
  · rw [acceptedSymbols_cons_of_not_accepts (by simp [PinSample.accepts, hv]), hd, ho]
    rfl

/-- R139, R48: over samples without a reset the clocked machine is the symbol level; by induction on the samples. -/
theorem exists_run_eq_next_of_no_reset {s : State} {ps : List PinSample} (hpins : s.pins = ps)
    (hr : ∀ p ∈ ps, p.rst = false) :
    ∃ t, Host.Core.run Sys2Proof.core ps.length s = .next t ∧ t.pins = [] ∧
      s.toDecoder.run (acceptedSymbols ps) = (t.toDecoder, eventsSeen ps.length s) := by
  induction ps generalizing s with
  | nil => exact ⟨s, rfl, hpins, rfl⟩
  | cons p rest ih =>
    obtain ⟨hp, hrest⟩ := List.forall_mem_cons.1 hr
    obtain ⟨u, hstep, hupins⟩ := exists_step_eq_next s
    rw [hpins, List.tail_cons] at hupins
    obtain ⟨t, hrun, htpins, hsymbols⟩ := ih hupins hrest
    refine ⟨t, (run_succ_of_step hstep _).trans hrun, htpins, ?_⟩
    rw [run_acceptedSymbols_of_step hpins hp hstep, hsymbols, List.length_cons, eventsSeen_succ hstep]

/-- Settles O44. -/
theorem clockedRunIsSymbolLevelRun : Obligations.ClockedRunIsSymbolLevelRun := by
  intro s hr
  obtain ⟨t, hrun, hpins, hsymbols⟩ := exists_run_eq_next_of_no_reset rfl hr
  rw [hsymbols]
  exact ⟨⟨t, hrun, hpins, rfl⟩, rfl⟩

/-- Settles O45: both machines run the same symbols from the same decoder state, by O44. -/
theorem pausesChangeNoEvent : Obligations.PausesChangeNoEvent := by
  intro s s' hdecoder haccepted hr hr'
  obtain ⟨⟨t, hrun, -, hend⟩, hevents⟩ := clockedRunIsSymbolLevelRun s hr
  obtain ⟨⟨t', hrun', -, hend'⟩, hevents'⟩ := clockedRunIsSymbolLevelRun s' hr'
  rw [← hdecoder, ← haccepted] at hend' hevents'
  exact ⟨hevents.trans hevents'.symm, t, t', hrun, hrun', hend.trans hend'.symm⟩

/-! ### Runs with a reset -/

/-- R110: a run of any number of edges completes; by induction on their number. -/
theorem exists_run_eq_next (k : Nat) (s : State) : ∃ u, Host.Core.run Sys2Proof.core k s = .next u := by
  induction k generalizing s with
  | zero => exact ⟨s, rfl⟩
  | succ k ih =>
    obtain ⟨t, hstep, -⟩ := exists_step_eq_next s
    rw [run_succ_of_step hstep]
    exact ih t

/-- A run goes on from the state that its first edges left; by induction on these. -/
theorem run_add_of_run {s u : State} {j : Nat} (h : Host.Core.run Sys2Proof.core j s = .next u) (k : Nat) :
    Host.Core.run Sys2Proof.core (j + k) s = Host.Core.run Sys2Proof.core k u := by
  induction j generalizing s with
  | zero => cases h; rw [Nat.zero_add]
  | succ j ih =>
    obtain ⟨t, hstep, -⟩ := exists_step_eq_next s
    rw [run_succ_of_step hstep] at h
    rw [Nat.succ_add, run_succ_of_step hstep, ih h]

/-- What is on the outputs in later cycles depends only on the state that the earlier edges left: `eventsTaken_append` for
a sink that reads in every cycle. -/
theorem eventsSeen_add_of_run {s u : State} {j : Nat} (h : Host.Core.run Sys2Proof.core j s = .next u) (k : Nat) :
    eventsSeen (j + k) s = eventsSeen j s ++ eventsSeen k u := by
  have htaken := eventsTaken_append (reads := List.replicate j true) (by rwa [List.length_replicate])
    (List.replicate k true)
  simpa only [← List.replicate_add, eventsTaken_replicate_true] using htaken

/-- Settles O46: the edges before the reset end somewhere, the reset edge leaves (1, 0, 0) and no event whatever that was,
and the edges after it are a run without a reset. -/
theorem resetForgetsThePast : Obligations.ResetForgetsThePast := by
  intro s before after symValid sym hpins hafter
  obtain ⟨u, hbefore⟩ := exists_run_eq_next before.length s
  have hupins : u.pins = { rst := true, symValid := symValid, sym := sym } :: after := by
    rw [pins_after_run hbefore, hpins, List.drop_left]
  have hreset : step u = .next { State.reset with pins := after } :=
    resetWinsOverSymbol u symValid sym after hupins
  obtain ⟨t, hrun, -, hsymbols⟩ :=
    exists_run_eq_next_of_no_reset (s := { State.reset with pins := after }) rfl hafter
  have hfromReset : Decoder.run { starting := true, acc := 0, ncnt := 0 } (acceptedSymbols after) =
      (t.toDecoder, eventsSeen after.length { State.reset with pins := after }) := hsymbols
  rw [hpins, List.length_append, List.length_cons, run_add_of_run hbefore, run_succ_of_step hreset,
    eventsSeen_add_of_run hbefore, eventsSeen_succ hreset, hfromReset]
  exact ⟨⟨t, hrun, rfl⟩, rfl⟩

end Sys2Proof.Machine
end

section
/-! Markers and the events around them, at the symbol level (R131, R134). Control symbols only set `starting` and emit
their Stops, so a group keeps its bits across them; and since a Stop leaves `starting` set, which only a Start clears,
every Byte has an event of its own transfer before it. -/

namespace Sys2Proof.Machine

/-! ### Control symbols inside a group -/

/-- What the control symbols `c` leave of a state: a start or stop marker among them has set `starting`
(`Decoder.run_controls`). -/
def Decoder.markedBy (d : Decoder) (c : List Symbol) : Decoder :=
  { d with starting := d.starting || decide (0b0001#4 ∈ c ∨ 0b0010#4 ∈ c) }

theorem Decoder.markedBy_starting_iff (d : Decoder) (c : List Symbol) :
    (d.markedBy c).starting = true ↔ d.starting = true ∨ 0b0001#4 ∈ c ∨ 0b0010#4 ∈ c := by
  simp [Decoder.markedBy]

@[simp] theorem Decoder.markedBy_nil (d : Decoder) : d.markedBy [] = d := by
  simp [Decoder.markedBy]

@[simp] theorem Decoder.markedBy_acc (d : Decoder) (c : List Symbol) : (d.markedBy c).acc = d.acc := rfl

@[simp] theorem Decoder.markedBy_ncnt (d : Decoder) (c : List Symbol) : (d.markedBy c).ncnt = d.ncnt := rfl

theorem Decoder.markedBy_markedBy (d : Decoder) (c1 c2 : List Symbol) :
    (d.markedBy c1).markedBy c2 = d.markedBy (c1 ++ c2) := by
  simp [Decoder.markedBy, or_or_or_comm, Bool.or_assoc]

theorem Decoder.markedBy_appendNibble (d : Decoder) (k : DataBits) (c : List Symbol) :
    (d.appendNibble k).markedBy c = (d.markedBy c).appendNibble k := rfl

theorem Decoder.markedBy_cons_of_marker {sym : Symbol} (h : sym = 0b0001#4 ∨ sym = 0b0010#4) (d : Decoder)
    (c : List Symbol) : d.markedBy (sym :: c) = d.setStarting.markedBy c := by
  rcases h with rfl | rfl <;> simp [Decoder.markedBy, Decoder.setStarting]

theorem Decoder.markedBy_cons_of_silent {sym : Symbol} (h1 : sym ≠ 0b0001#4) (h2 : sym ≠ 0b0010#4) (d : Decoder)
    (c : List Symbol) : d.markedBy (sym :: c) = d.markedBy c := by
  simp [Decoder.markedBy, h1.symm, h2.symm]

/-- R32, R80 to R82, R100: a stretch of control symbols keeps the group in progress, and its events are the Stops of its
stop markers; by induction on the stretch. -/
theorem Decoder.run_controls {c : List Symbol} (h : ∀ sym ∈ c, sym.toNat < 8) (d : Decoder) :
    d.run c = (d.markedBy c, List.replicate (c.count 0b0010#4) .stop) := by
  induction c generalizing d with
  | nil => rw [Decoder.run_nil, Decoder.markedBy_nil]; rfl
  | cons sym c ih =>
    obtain ⟨hsym, hc⟩ := List.forall_mem_cons.1 h
    rw [Decoder.run_cons, ih hc]
    rcases Decoder.step_cases sym d with
      ⟨rfl, hstart⟩ | ⟨rfl, hstop⟩ | ⟨h8, -⟩ | ⟨h8, -⟩ | ⟨-, h1, h2, hkeep⟩
    · rw [hstart, Decoder.markedBy_cons_of_marker (.inl rfl), List.count_cons_of_ne (by decide)]; rfl
    · rw [hstop, Decoder.markedBy_cons_of_marker (.inr rfl), List.count_cons_self, List.replicate_succ]; rfl
    · omega
    · omega
    · rw [hkeep, Decoder.markedBy_cons_of_silent h1 h2, List.count_cons_of_ne h2]; rfl

/-- R90, R134: a nibble that still has room in the group is kept across the control symbols after it. -/
theorem Decoder.run_dataNibble_controls {d : Decoder} (hn : d.ncnt < 2) (k : DataBits) {c : List Symbol}
    (h : ∀ sym ∈ c, sym.toNat < 8) :
    d.run (dataNibble k :: c) = ((d.appendNibble k).markedBy c, List.replicate (c.count 0b0010#4) .stop) := by
  rw [Decoder.run_cons, Decoder.step_dataNibble, Decoder.data_of_lt hn, Decoder.run_controls h]
  rfl

/-- R134: from a group boundary, two nibbles with control symbols after each leave what they would leave with all the
control symbols after both. -/
theorem Decoder.run_two_dataNibbles_controls {d : Decoder} (hn : d.ncnt = 0) (d0 d1 : DataBits) {c1 c2 : List Symbol}
    (h1 : ∀ sym ∈ c1, sym.toNat < 8) (h2 : ∀ sym ∈ c2, sym.toNat < 8) :
    d.run (dataNibble d0 :: c1 ++ dataNibble d1 :: c2) =
      (((d.appendNibble d0).appendNibble d1).markedBy (c1 ++ c2),
        List.replicate ((c1 ++ c2).count 0b0010#4) .stop) := by
  rw [Decoder.run_append, Decoder.run_dataNibble_controls (by simp [hn]) d0 h1,
    Decoder.run_dataNibble_controls (by simp [hn]) d1 h2, ← Decoder.markedBy_appendNibble, Decoder.markedBy_markedBy,
    List.count_append, List.replicate_add]

/-- Settles O38: the third nibble completes the group of `Decoder.run_two_dataNibbles_controls`, of which the control
symbols have written `starting` only. -/
theorem markersInsideGroupKeepIt : Obligations.MarkersInsideGroupKeepIt := by
  intro d d0 d1 d2 c1 c2 hn hcontrol
  obtain ⟨hc1, hc2⟩ := List.forall_mem_append.1 hcontrol
  have htwo : (((d.appendNibble d0).appendNibble d1).markedBy (c1 ++ c2)).ncnt = 2 := by simp [hn]
  have hacc : (((d.appendNibble d0).appendNibble d1).markedBy (c1 ++ c2)).acc.toNat = 8 * d0.toNat + d1.toNat := by
    rw [Decoder.markedBy_acc, Decoder.appendNibble_appendNibble_acc, toNat_append_eq_mul_add]
    rfl
  have haddress : 2 * (8 * d0.toNat + d1.toNat) + d2.toNat / 4 = 16 * d0.toNat + 2 * d1.toNat + d2.toNat / 4 := by
    omega
  have hvalue : 4 * (8 * d0.toNat + d1.toNat) + d2.toNat / 2 = 32 * d0.toNat + 4 * d1.toNat + d2.toNat / 2 := by
    omega
  simp only [Decoder.run_append _ _ [dataNibble d2], Decoder.run_two_dataNibbles_controls hn d0 d1 hc1 hc2,
    Decoder.run_cons, Decoder.run_nil, Decoder.step_dataNibble, Decoder.data_of_eq htwo, Decoder.complete_fst,
    Decoder.complete_snd_as_numbers, hacc, haddress, hvalue, Decoder.markedBy_starting_iff,
    Decoder.appendNibble_starting, Option.toList_some, List.append_nil]

/-! ### What stands before a Byte -/

/-- R81, R90: a symbol that emits nothing does not clear `starting`. -/
theorem Decoder.starting_of_step_silent {sym : Symbol} {d : Decoder} (hnone : (d.step sym).2 = none)
    (h0 : (d.step sym).1.starting = false) : d.starting = false := by
  by_contra hset
  obtain ⟨h8, hn⟩ := Decoder.completes_of_step_clears_starting (Bool.of_not_eq_false hset) h0
  have hemits := (Decoder.step_emits_iff sym d).2 (.inr ⟨h8, hn⟩)
  simp [hnone] at hemits

/-- R92, R93: a Byte is emitted only while `starting` is 0. -/
theorem Decoder.starting_of_step_byte {sym : Symbol} {d : Decoder} {value : Byte} {acknowledged : Bool}
    (h : (d.step sym).2 = some (.byte value acknowledged)) : d.starting = false := by
  rcases Decoder.step_cases sym d with
    ⟨-, hstart⟩ | ⟨-, hstop⟩ | ⟨-, -, happend⟩ | ⟨-, -, hcomplete⟩ | ⟨-, -, -, hkeep⟩
  · simp [hstart] at h
  · simp [hstop] at h
  · simp [happend] at h
  · rw [hcomplete, Decoder.complete_snd] at h
    cases hs : d.starting with
    | true => simp [hs] at h
    | false => rfl
  · simp [hkeep] at h

/-- R82: a symbol that leaves `starting` at 0 emitted no Stop. -/
theorem Decoder.ne_stop_of_step_starting {sym : Symbol} {d : Decoder} {e : Event} (h : (d.step sym).2 = some e)
    (h0 : (d.step sym).1.starting = false) : e ≠ .stop := by
  rintro rfl
  have hfits := Decoder.step_eventFits sym d
  rw [h] at hfits
  exact Bool.false_ne_true (h0.symm.trans hfits)

/-- In the run from any state, a Byte that has no event before it was emitted because `starting` was 0 at the start; every
other Byte has an event before it that is no Stop. By induction on the stream. -/
theorem Decoder.run_byte_first_or_after_no_stop {d : Decoder} {xs : List Symbol} {before after : List Event}
    {value : Byte} {acknowledged : Bool} (h : (d.run xs).2 = before ++ .byte value acknowledged :: after) :
    (before = [] ∧ d.starting = false) ∨ ∃ earlier e, before = earlier ++ [e] ∧ e ≠ .stop := by
  induction xs generalizing d before with
  | nil => simp at h
  | cons sym xs ih =>
    rw [Decoder.run_cons] at h
    cases hevent : (d.step sym).2 with
    | none =>
      rw [hevent] at h
      exact (ih h).imp_left fun ⟨hnil, h0⟩ => ⟨hnil, Decoder.starting_of_step_silent hevent h0⟩
    | some e =>
      rw [hevent, Option.toList_some, List.singleton_append] at h
      cases before with
      | nil =>
        obtain ⟨rfl, -⟩ := List.cons.inj h
        exact .inl ⟨rfl, Decoder.starting_of_step_byte hevent⟩
      | cons e' before =>
        obtain ⟨rfl, hrest⟩ := List.cons.inj h
        right
        rcases ih hrest with ⟨rfl, h0⟩ | ⟨earlier, last, rfl, hlast⟩
        · exact ⟨[], e, rfl, Decoder.ne_stop_of_step_starting hevent h0⟩
        · exact ⟨e :: earlier, last, rfl, hlast⟩

/-- Settles O41: after reset `starting` is 1, so no Byte comes first. -/
theorem byteOnlyAfterStartOrByte : Obligations.ByteOnlyAfterStartOrByte := by
  intro xs before after value acknowledged h
  rcases Decoder.run_byte_first_or_after_no_stop h with ⟨-, h0⟩ | hafter
  · exact absurd h0 (by decide)
  · exact hafter

end Sys2Proof.Machine
end

section
/-! What the machine does with what it was not given. A table word presented at the fetch interface is one more sample
before the others (log 8); with no sample left, every edge is a pause, so the machine stays as its first one left it
(R141, log 3); and the document's `bits` before the first symbol are shifted above the fields of every event (I6, D10). -/

namespace Sys2Proof.Machine

/-! ### The fetch interface -/

/-- What the decoder reads from a table word is its first symbol, the same that `State.withFetchWord` presents. -/
theorem eq_decodeSymbol_of_decodeTableWord {nbits w : Nat} {i : Instr} (h : decodeTableWord nbits w = some i) :
    i = decodeSymbol (BitVec.ofNat 4 (w % 2 ^ nbits)) := by
  unfold decodeTableWord at h
  cases hwords : (nbits + 3) / 4 with
  | zero => simp [hwords, tableWords, decode] at h
  | succ n =>
    rw [hwords] at h
    exact (Option.some.inj h).symm

/-- Settles O20: the presented word is a sample with a symbol and no reset, and the edge takes it away again (O19). -/
theorem fetchWordRunsNext : Obligations.FetchWordRunsNext := by
  intro s nbits w i h
  rw [eq_decodeSymbol_of_decodeTableWord h]
  exact stepRunsDecodedInstruction (s.withFetchWord nbits w) _ s.pins rfl

/-! ### The end of a run -/

@[simp] theorem State.hold_hold (s : State) : s.hold.hold = s.hold := rfl

/-- R131, R140: an edge with no sample left is a pause, and there is no sample to take. -/
theorem step_of_nil {s : State} (h : s.pins = []) : step s = .next s.hold := by
  have hsampled := State.sampledPins_of_nil h
  have hpins : s.passEdge.hold.pins = s.hold.pins := by simp [h]
  rw [step_of_pause (by rw [hsampled]; rfl) (by rw [hsampled]; rfl)]
  exact congrArg Host.Outcome.next (State.eq_of_parts rfl rfl hpins)

/-- R141: the edges after the first one change nothing more; by induction on their number. -/
theorem run_succ_of_nil {s : State} (h : s.pins = []) (k : Nat) :
    Host.Core.run Sys2Proof.core (k + 1) s = .next s.hold := by
  induction k generalizing s with
  | zero => exact run_succ_of_step (step_of_nil h) 0
  | succ k ih => rw [run_succ_of_step (step_of_nil h), ih (s := s.hold) h, State.hold_hold]

/-- R141: no cycle after the last sample shows an event; by induction on the cycles. -/
theorem eventsSeen_of_nil {s : State} (h : s.pins = []) (k : Nat) : eventsSeen k s = [] := by
  induction k generalizing s with
  | zero => rfl
  | succ k ih =>
    rw [eventsSeen_succ (step_of_nil h), ih (s := s.hold) h, State.hold_toOutputs, Outputs.event?_quiet]
    rfl

/-- Settles O23. -/
theorem endOfRunFlushesNothing : Obligations.EndOfRunFlushesNothing :=
  fun _ k h => ⟨run_succ_of_nil h k, eventsSeen_of_nil h k⟩

/-! ### The initial bits of the document's machine -/

/-- Two states of the document's machine that no event tells apart: they agree but for the bits above the `nbits` that
the group in progress has put in. -/
structure Document.SameGroup (s t : Document) : Prop where
  starting : s.starting = t.starting
  nbits : s.nbits = t.nbits
  bits : s.bits ≡ t.bits [MOD 2 ^ s.nbits]

/-- With no bit of a group in, the initial states agree whatever their bits are. -/
theorem Document.sameGroup_initial (m n : Nat) : Document.SameGroup (.initial m) (.initial n) :=
  ⟨rfl, rfl, Nat.modEq_one⟩

/-- R67, D10: the fields of an event take the low nine bits, and no more. -/
theorem Document.event_congr {a b : Nat} (h : a ≡ b [MOD 512]) (starting : Bool) :
    Document.event starting a = Document.event starting b := by
  unfold Nat.ModEq at h
  have haddress : BitVec.ofNat 7 (a / 4) = BitVec.ofNat 7 (b / 4) :=
    BitVec.eq_of_toNat_eq (by simp only [BitVec.toNat_ofNat]; omega)
  have hdirection : a / 2 % 2 = b / 2 % 2 := by omega
  have hbyte : BitVec.ofNat 8 (a / 2) = BitVec.ofNat 8 (b / 2) :=
    BitVec.eq_of_toNat_eq (by simp only [BitVec.toNat_ofNat]; omega)
  have hack : a % 2 = b % 2 := by omega
  rw [Document.event_eq_ite, Document.event_eq_ite, haddress, hdirection, hbyte, hack]

/-- R90: three bits joined below two numbers that agree in their low `n` bits make them agree in three more. -/
theorem joinBits_modEq {a b n : Nat} (h : a ≡ b [MOD 2 ^ n]) (k : Nat) :
    8 * a + k ≡ 8 * b + k [MOD 2 ^ (n + 3)] := by
  have hscaled : 8 * a ≡ 8 * b [MOD 8 * 2 ^ n] := h.mul_left' 8
  rw [pow_add, Nat.mul_comm]
  exact hscaled.add_right k

/-- One symbol gives the same event in both states and keeps them alike, in the cases of R73: markers and silent symbols
leave `bits` alone, a data nibble joins three bits to both or completes both groups. -/
theorem Document.SameGroup.step {s t : Document} (h : s.SameGroup t) (sym : Symbol) :
    (s.step sym).1.SameGroup (t.step sym).1 ∧ (s.step sym).2 = (t.step sym).2 := by
  obtain ⟨hstarting, hnbits, hbits⟩ := h
  by_cases h8 : 8 ≤ sym.toNat
  · have hjoined := joinBits_modEq hbits (dataField sym).toNat
    rw [Document.step_of_eight_le h8, Document.step_of_eight_le h8, ← hnbits, ← hstarting]
    by_cases hfull : s.nbits = 6
    · rw [if_pos hfull, if_pos hfull]
      rw [hfull] at hjoined
      exact ⟨⟨rfl, rfl, rfl⟩, congrArg some (Document.event_congr hjoined s.starting)⟩
    · rw [if_neg hfull, if_neg hfull]
      exact ⟨⟨rfl, rfl, hjoined⟩, rfl⟩
  · rcases eq_or_ne sym 0b0001#4 with rfl | h1
    · exact ⟨⟨rfl, hnbits, hbits⟩, rfl⟩
    rcases eq_or_ne sym 0b0010#4 with rfl | h2
    · exact ⟨⟨rfl, hnbits, hbits⟩, rfl⟩
    rw [Document.step_of_silent (Nat.lt_of_not_le h8) h1 h2, Document.step_of_silent (Nat.lt_of_not_le h8) h1 h2]
    exact ⟨⟨hstarting, hnbits, hbits⟩, rfl⟩

/-- By induction on the stream: every symbol keeps the states alike. -/
theorem Document.SameGroup.run_events_eq {s t : Document} (h : s.SameGroup t) (xs : List Symbol) :
    (s.run xs).2 = (t.run xs).2 := by
  induction xs generalizing s t with
  | nil => rfl
  | cons sym xs ih =>
    obtain ⟨hnext, hevent⟩ := h.step sym
    rw [Document.run, Document.run, hevent, ih hnext]

/-- Settles O43. -/
theorem initialBitsChangeNoEvent : Obligations.InitialBitsChangeNoEvent :=
  fun n xs => (Document.sameGroup_initial n 0).run_events_eq xs

end Sys2Proof.Machine
end
